-- ==== Sys2Proof/Word.lean ====
section
/-! DEFINITION. The widths of the hardware (spec/00_scope.md R4, R6). All values are unsigned. -/

namespace Sys2Proof

/-- 8 bits: a register, a memory byte, a timer (R4). -/
abbrev Byte := BitVec 8

/-- 16 bits: an instruction word, `pc`, `I`, a stack slot (R4, R70). -/
abbrev Word := BitVec 16

/-- 4 bits: a register number `x` or `y`, a row count `n`, a key number, `sp` (R4, R71). -/
abbrev Nibble := BitVec 4

/-- 12 bits: the address literal `nnn` and a load origin (R71, R202). -/
abbrev Addr12 := BitVec 12

end Sys2Proof
end

