-- ==== Sys2Proof/Config.lean ====
section
/-! DEFINITION. The parameters of the hardware (spec/00_scope.md R4) and the step inputs that the environment supplies
(R5). `TICK_PERIOD` is not here: no rule reads it (R216). -/

namespace Sys2Proof

/-- What the encoding Fx0A does: `WAITKEY_POLICY` (R4, decision D8). -/
inductive WaitKeyPolicy where
  /-- Always raise WAIT_KEY_UNIMPLEMENTED (R162): the default. -/
  | fault
  /-- Look at the keys at every step until one is held (R163). -/
  | poll
  deriving DecidableEq, Repr

/-- `FONT`: the 80 bytes preloaded at addresses 0 to 79 (R4, R52). -/
abbrev Font := Vector Byte 80

/-- The configuration of a machine, fixed before reset and constant during a run (R4, R203). -/
structure Config where
  /-- `HIGH_RES`: false selects 64 x 32, true 128 x 64 (R29). -/
  highRes : Bool
  /-- `WAITKEY_POLICY` (R162, R163). -/
  waitKeyPolicy : WaitKeyPolicy
  /-- `FONT` (R52). -/
  font : Font
  /-- `ORIGIN`: the load address used when the host names none (R202). -/
  origin : Addr12
  deriving DecidableEq, Repr

/-- Glyphs 0 to 7 of the default `FONT` (R52). -/
def fontLow : List Byte :=
  [0xF0, 0x90, 0x90, 0x90, 0xF0, 0x20, 0x60, 0x20, 0x20, 0x70,
   0xF0, 0x10, 0xF0, 0x80, 0xF0, 0xF0, 0x10, 0xF0, 0x10, 0xF0,
   0x90, 0x90, 0xF0, 0x10, 0x10, 0xF0, 0x80, 0xF0, 0x10, 0xF0,
   0xF0, 0x80, 0xF0, 0x90, 0xF0, 0xF0, 0x10, 0x20, 0x40, 0x40]

/-- Glyphs 8 to F of the default `FONT` (R52). -/
def fontHigh : List Byte :=
  [0xF0, 0x90, 0xF0, 0x90, 0xF0, 0xF0, 0x90, 0xF0, 0x10, 0xF0,
   0xF0, 0x90, 0xF0, 0x90, 0x90, 0xE0, 0x90, 0xE0, 0x90, 0xE0,
   0xF0, 0x80, 0x80, 0x80, 0xF0, 0xE0, 0x90, 0x90, 0x90, 0xE0,
   0xF0, 0x80, 0xF0, 0x80, 0xF0, 0xF0, 0x80, 0xF0, 0x80, 0x80]

/-- The default `FONT`: the table of R52. PRESUMED (log 1): the spec takes these bytes from general knowledge (G1).
unsafe for a claim about which pixels a glyph lights. -/
def defaultFont : Font := ⟨(fontLow ++ fontHigh).toArray, rfl⟩

/-- The default of every parameter (R4). -/
def Config.default : Config where
  highRes := false
  waitKeyPolicy := .fault
  font := defaultFont
  origin := 0x200

/-- The two inputs of one step (R5). -/
structure StepInput where
  /-- The byte the random source answers with in this step. -/
  rand : Byte
  /-- Whether a 60 Hz tick has elapsed since the last check. -/
  tick : Bool
  deriving DecidableEq, Repr, Inhabited

/-- The n-th step input that nobody has supplied: a FREE VALUE (R5, U11, log 3). It has no body, so no proof can know
one of its values. DESIGN CHOICE, safe. -/
opaque Config.freeInput : Nat → StepInput

end Sys2Proof
end

