-- ==== Sys2Proof/Syntax.lean ====
section
/-! DEFINITION. The instructions: one constructor per row of the opcode map (spec/30_encoding.md R75), in the order of the
table. The operands are the fields of R71 that the row's pattern names, at their own widths. -/

namespace Sys2Proof

inductive Instr where
  /-- 00E0 CLS (R150). -/
  | cls
  /-- 00EE RET (R101). -/
  | ret
  /-- 0nnn HALT, every other word of family 0; `nnn` is decoded and ignored (R76, R100). -/
  | halt (nnn : Addr12)
  /-- 1nnn JP nnn (R102). -/
  | jp (nnn : Addr12)
  /-- 2nnn CALL nnn (R103). -/
  | call (nnn : Addr12)
  /-- 3xkk SE Vx,kk (R104). -/
  | seVxKk (x : Nibble) (kk : Byte)
  /-- 4xkk SNE Vx,kk (R105). -/
  | sneVxKk (x : Nibble) (kk : Byte)
  /-- 5xy0 SE Vx,Vy (R106). -/
  | seVxVy (x y : Nibble)
  /-- 6xkk LD Vx,kk (R120). -/
  | ldVxKk (x : Nibble) (kk : Byte)
  /-- 7xkk ADD Vx,kk (R121). -/
  | addVxKk (x : Nibble) (kk : Byte)
  /-- 8xy0 LD Vx,Vy (R122). -/
  | ldVxVy (x y : Nibble)
  /-- 8xy1 OR Vx,Vy (R123). -/
  | orVxVy (x y : Nibble)
  /-- 8xy2 AND Vx,Vy (R124). -/
  | andVxVy (x y : Nibble)
  /-- 8xy3 XOR Vx,Vy (R125). -/
  | xorVxVy (x y : Nibble)
  /-- 8xy4 ADD Vx,Vy (R126). -/
  | addVxVy (x y : Nibble)
  /-- 8xy5 SUB Vx,Vy (R127). -/
  | subVxVy (x y : Nibble)
  /-- 8xy6 SHR Vx; `y` is in the word and ignored (R128). -/
  | shrVx (x y : Nibble)
  /-- 8xy7 SUBN Vx,Vy (R129). -/
  | subnVxVy (x y : Nibble)
  /-- 8xyE SHL Vx; `y` is in the word and ignored (R130). -/
  | shlVx (x y : Nibble)
  /-- 9xy0 SNE Vx,Vy (R107). -/
  | sneVxVy (x y : Nibble)
  /-- Annn LD I,nnn (R140). -/
  | ldINnn (nnn : Addr12)
  /-- Bnnn JP V0,nnn (R108). -/
  | jpV0Nnn (nnn : Addr12)
  /-- Cxkk RND Vx,kk (R131). -/
  | rndVxKk (x : Nibble) (kk : Byte)
  /-- Dxyn DRW Vx,Vy,n (R151). -/
  | drwVxVyN (x y n : Nibble)
  /-- Ex9E SKP Vx (R160). -/
  | skpVx (x : Nibble)
  /-- ExA1 SKNP Vx (R161). -/
  | sknpVx (x : Nibble)
  /-- Fx07 LD Vx,DT (R164). -/
  | ldVxDt (x : Nibble)
  /-- Fx0A LD Vx,K (R162, R163). -/
  | ldVxK (x : Nibble)
  /-- Fx15 LD DT,Vx (R165). -/
  | ldDtVx (x : Nibble)
  /-- Fx18 LD ST,Vx (R166). -/
  | ldStVx (x : Nibble)
  /-- Fx1E ADD I,Vx (R141). -/
  | addIVx (x : Nibble)
  /-- Fx29 LD F,Vx (R142). -/
  | ldFVx (x : Nibble)
  /-- Fx33 LD B,Vx (R143). -/
  | ldBVx (x : Nibble)
  /-- Fx55 LD [I],Vx (R144): `x` is a count. -/
  | ldMemVx (x : Nibble)
  /-- Fx65 LD Vx,[I] (R145): `x` is a count. -/
  | ldVxMem (x : Nibble)
  deriving DecidableEq, Repr

end Sys2Proof
end

