-- ==== Sys2Proof/WellFormed.lean ====
section
/-! DEFINITION. Which terms of `Instr` stand for an instruction of the hardware. The operand types already bound every
field; what is left is that the HALT row leaves out the two fixed words of family 0 (spec/30_encoding.md R74, R76). -/

namespace Sys2Proof

/-- HALT is family 0 "and not 0x00E0 and not 0x00EE" (R74); every other term is an instruction. -/
def Instr.wellFormed : Instr → Bool
  | .halt nnn => nnn != 0x0E0 && nnn != 0x0EE
  | _ => true

end Sys2Proof
end

