-- ==== Sys2Proof/Decode.lean ====
section
/-! DEFINITION. The decoder and the encoder (spec/30_encoding.md R70 to R77). -/

namespace Sys2Proof

/-- Field `x`: bits 11 to 8 (R71). -/
def fieldX (w : Word) : Nibble := w.extractLsb' 8 4
/-- Field `y`: bits 7 to 4 (R71). -/
def fieldY (w : Word) : Nibble := w.extractLsb' 4 4
/-- Field `n`: bits 3 to 0 (R71). -/
def fieldN (w : Word) : Nibble := w.extractLsb' 0 4
/-- Field `kk`: bits 7 to 0 (R71). -/
def fieldKk (w : Word) : Byte := w.extractLsb' 0 8
/-- Field `nnn`: bits 11 to 0 (R71). -/
def fieldNnn (w : Word) : Addr12 := w.extractLsb' 0 12

/-- One row of the opcode map: its mask, its match and the instruction it reads from a word (R75). -/
structure Row where
  mask : Word
  pattern : Word
  make : Word → Instr

/-- A row selects the words with `(ir AND mask) = match` (R74). -/
def Row.selects (r : Row) (w : Word) : Bool := w &&& r.mask == r.pattern

/-- Rows 1 to 10 of R75: families 0 to 7. -/
def rowsLow : List Row :=
  [ ⟨0xFFFF, 0x00E0, fun _ => .cls⟩,
    ⟨0xFFFF, 0x00EE, fun _ => .ret⟩,
    ⟨0xF000, 0x0000, fun w => .halt (fieldNnn w)⟩,
    ⟨0xF000, 0x1000, fun w => .jp (fieldNnn w)⟩,
    ⟨0xF000, 0x2000, fun w => .call (fieldNnn w)⟩,
    ⟨0xF000, 0x3000, fun w => .seVxKk (fieldX w) (fieldKk w)⟩,
    ⟨0xF000, 0x4000, fun w => .sneVxKk (fieldX w) (fieldKk w)⟩,
    ⟨0xF00F, 0x5000, fun w => .seVxVy (fieldX w) (fieldY w)⟩,
    ⟨0xF000, 0x6000, fun w => .ldVxKk (fieldX w) (fieldKk w)⟩,
    ⟨0xF000, 0x7000, fun w => .addVxKk (fieldX w) (fieldKk w)⟩ ]

/-- Rows 11 to 20 of R75: families 8 and 9. -/
def rowsAlu : List Row :=
  [ ⟨0xF00F, 0x8000, fun w => .ldVxVy (fieldX w) (fieldY w)⟩,
    ⟨0xF00F, 0x8001, fun w => .orVxVy (fieldX w) (fieldY w)⟩,
    ⟨0xF00F, 0x8002, fun w => .andVxVy (fieldX w) (fieldY w)⟩,
    ⟨0xF00F, 0x8003, fun w => .xorVxVy (fieldX w) (fieldY w)⟩,
    ⟨0xF00F, 0x8004, fun w => .addVxVy (fieldX w) (fieldY w)⟩,
    ⟨0xF00F, 0x8005, fun w => .subVxVy (fieldX w) (fieldY w)⟩,
    ⟨0xF00F, 0x8006, fun w => .shrVx (fieldX w) (fieldY w)⟩,
    ⟨0xF00F, 0x8007, fun w => .subnVxVy (fieldX w) (fieldY w)⟩,
    ⟨0xF00F, 0x800E, fun w => .shlVx (fieldX w) (fieldY w)⟩,
    ⟨0xF00F, 0x9000, fun w => .sneVxVy (fieldX w) (fieldY w)⟩ ]

/-- Rows 21 to 35 of R75: families A to F. -/
def rowsHigh : List Row :=
  [ ⟨0xF000, 0xA000, fun w => .ldINnn (fieldNnn w)⟩,
    ⟨0xF000, 0xB000, fun w => .jpV0Nnn (fieldNnn w)⟩,
    ⟨0xF000, 0xC000, fun w => .rndVxKk (fieldX w) (fieldKk w)⟩,
    ⟨0xF000, 0xD000, fun w => .drwVxVyN (fieldX w) (fieldY w) (fieldN w)⟩,
    ⟨0xF0FF, 0xE09E, fun w => .skpVx (fieldX w)⟩,
    ⟨0xF0FF, 0xE0A1, fun w => .sknpVx (fieldX w)⟩,
    ⟨0xF0FF, 0xF007, fun w => .ldVxDt (fieldX w)⟩,
    ⟨0xF0FF, 0xF00A, fun w => .ldVxK (fieldX w)⟩,
    ⟨0xF0FF, 0xF015, fun w => .ldDtVx (fieldX w)⟩,
    ⟨0xF0FF, 0xF018, fun w => .ldStVx (fieldX w)⟩,
    ⟨0xF0FF, 0xF01E, fun w => .addIVx (fieldX w)⟩,
    ⟨0xF0FF, 0xF029, fun w => .ldFVx (fieldX w)⟩,
    ⟨0xF0FF, 0xF033, fun w => .ldBVx (fieldX w)⟩,
    ⟨0xF0FF, 0xF055, fun w => .ldMemVx (fieldX w)⟩,
    ⟨0xF0FF, 0xF065, fun w => .ldVxMem (fieldX w)⟩ ]

/-- The opcode map, in the order it is searched (R74, R75). -/
def opcodeRows : List Row := rowsLow ++ rowsAlu ++ rowsHigh

/-- Why bytes are no instruction. -/
inductive DecodeError where
  /-- The word matches no row: a reserved encoding (R77). -/
  | unknownOpcode (ir : Word)
  /-- Fewer than the two bytes every instruction has (R70). -/
  | truncated
  deriving DecidableEq, Repr

/-- "the first row whose (ir AND mask) = match holds selects the instruction" (R74). -/
def decodeWord (w : Word) : Except DecodeError Instr :=
  match opcodeRows.find? (·.selects w) with
  | some r => .ok (r.make w)
  | none => .error (.unknownOpcode w)

/-- The word two bytes spell, the byte at the lower address first: big-endian (R53). -/
def wordOfBytes (hi lo : Byte) : Word := hi ++ lo

/-- The byte at the lower address (R53). -/
def highByte (w : Word) : Byte := w.extractLsb' 8 8

/-- The byte at the higher address (R53). -/
def lowByte (w : Word) : Byte := w.extractLsb' 0 8

/-- The instruction at the head of a list of bytes, with the bytes after it (R53, R70). -/
def decodeBytes : List Byte → Except DecodeError (Instr × List Byte)
  | hi :: lo :: rest => (decodeWord (wordOfBytes hi lo)).map fun i => (i, rest)
  | _ => .error .truncated

/-- Format NNN: `op`, `nnn` (R72). -/
def packNnn (op : Nibble) (nnn : Addr12) : Word := op ++ nnn

/-- Format XKK: `op`, `x`, `kk`; format XSUB with a sub-opcode in the place of `kk` (R72). -/
def packXkk (op x : Nibble) (kk : Byte) : Word := op ++ x ++ kk

/-- Format XYN: `op`, `x`, `y`, and `n` or a sub-opcode (R72). -/
def packXyn (op x y n : Nibble) : Word := op ++ x ++ y ++ n

/-- The word of an instruction: the pattern of its row of R75 with the fields put in. -/
def encode : Instr → Word
  | .cls => 0x00E0
  | .ret => 0x00EE
  | .halt nnn => packNnn 0x0 nnn
  | .jp nnn => packNnn 0x1 nnn
  | .call nnn => packNnn 0x2 nnn
  | .seVxKk x kk => packXkk 0x3 x kk
  | .sneVxKk x kk => packXkk 0x4 x kk
  | .seVxVy x y => packXyn 0x5 x y 0x0
  | .ldVxKk x kk => packXkk 0x6 x kk
  | .addVxKk x kk => packXkk 0x7 x kk
  | .ldVxVy x y => packXyn 0x8 x y 0x0
  | .orVxVy x y => packXyn 0x8 x y 0x1
  | .andVxVy x y => packXyn 0x8 x y 0x2
  | .xorVxVy x y => packXyn 0x8 x y 0x3
  | .addVxVy x y => packXyn 0x8 x y 0x4
  | .subVxVy x y => packXyn 0x8 x y 0x5
  | .shrVx x y => packXyn 0x8 x y 0x6
  | .subnVxVy x y => packXyn 0x8 x y 0x7
  | .shlVx x y => packXyn 0x8 x y 0xE
  | .sneVxVy x y => packXyn 0x9 x y 0x0
  | .ldINnn nnn => packNnn 0xA nnn
  | .jpV0Nnn nnn => packNnn 0xB nnn
  | .rndVxKk x kk => packXkk 0xC x kk
  | .drwVxVyN x y n => packXyn 0xD x y n
  | .skpVx x => packXkk 0xE x 0x9E
  | .sknpVx x => packXkk 0xE x 0xA1
  | .ldVxDt x => packXkk 0xF x 0x07
  | .ldVxK x => packXkk 0xF x 0x0A
  | .ldDtVx x => packXkk 0xF x 0x15
  | .ldStVx x => packXkk 0xF x 0x18
  | .addIVx x => packXkk 0xF x 0x1E
  | .ldFVx x => packXkk 0xF x 0x29
  | .ldBVx x => packXkk 0xF x 0x33
  | .ldMemVx x => packXkk 0xF x 0x55
  | .ldVxMem x => packXkk 0xF x 0x65

/-- The two bytes of an instruction in memory order (R53). -/
def encodeBytes (i : Instr) : List Byte := [highByte (encode i), lowByte (encode i)]

/-- The instruction word whose bits, numbered as spec/opcode_table.json numbers them, are the low `nbits` bits of `w`;
the bits above are zero. The table has one 16-bit word per instruction. -/
def tableWord (nbits w : Nat) : Word := BitVec.ofNat 16 (w % 2 ^ nbits)

/-- What the decoder reads from the table word `w`, laid out in memory order (R53). -/
def decodeTableWord (nbits w : Nat) : Option Instr :=
  match decodeBytes [highByte (tableWord nbits w), lowByte (tableWord nbits w)] with
  | .ok (i, _) => some i
  | .error _ => none

end Sys2Proof
end

