-- ==== Sys2Proof/Machine/State.lean ====
section
/-! DEFINITION. The state of the machine: the record of spec/10_state.md R20, with its reset values (R34), the causes of a
fault (spec/60_exceptions.md R170) and the reasons a step or a transaction could stop. -/

namespace Sys2Proof.Machine

/-- The registers `V[0]` to `V[15]` (R21). -/
abbrev RegFile := Vector Byte 16

/-- The 16 stack slots (R25). -/
abbrev CallStack := Vector Word 16

/-- The 16 key flags (R27). -/
abbrev Keys := Vector Bool 16

/-- The display buffer: 64 rows, "each row a 128-bit mask" (R28). -/
abbrev Display := Vector (BitVec 128) 64

/-- Memory as (address, byte) pairs in rising order of address, none equal to what an unlisted address reads as
(`Memory.wf` in Machine/Memory.lean). -/
abbrev Memory := List Host.Cell

/-- The causes of a fault, with the names of R170. Code 0, NONE, is no constructor: nothing raises it. -/
inductive Cause where
  /-- Phase FETCH, `pc + 1 >= 4096` (R171). -/
  | pcOutOfRange
  /-- Phase DECODE, a reserved word (R172). -/
  | unknownOpcode
  /-- CALL with `sp = 15` (R173). -/
  | stackOverflow
  /-- RET with `sp = 0` (R174). -/
  | stackUnderflow
  /-- DRW, LD B, LD [I], LD Vx,[I] whose byte range passes 4095 (R175). -/
  | memoryOutOfBounds
  /-- SKP, SKNP with `Vx > 15` (R176). -/
  | keyIndexOutOfRange
  /-- LD Vx,K under `WAITKEY_POLICY = fault` (R177). -/
  | waitKeyUnimplemented
  deriving DecidableEq, Repr

/-- The state of the core (R20), and below it three fields of the model's own (log 2, log 3). -/
structure State where
  /-- `mem`: 4096 bytes (R50); an unlisted address reads as its reset contents (R34). -/
  mem : Memory
  /-- `pc`: between steps, the address the next step fetches from (R23). -/
  pc : Word
  /-- `V[0..15]` (R21); `V[15]` is VF (R22). -/
  v : RegFile
  /-- `I`: all 16 bits are kept (R24). -/
  index : Word
  /-- `stack[0..15]`; slot 0 is never used (R25). -/
  stack : CallStack
  /-- `sp`: "index of the most recently pushed entry (0 = empty)" (R25). -/
  sp : Nibble
  /-- `dt`: the delay timer (R26). -/
  dt : Byte
  /-- `st`: the sound timer (R26). -/
  st : Byte
  /-- `keys[0..15]`: "currently held" (R27). -/
  keys : Keys
  /-- `display[0..63][0..127]`: column `c` is mask bit `127 - c` (R28). -/
  display : Display
  /-- `high_resolution`: equal to HIGH_RES (R29). -/
  highResolution : Bool
  /-- `needs_redraw` (R30). -/
  needsRedraw : Bool
  /-- `halted` (R31). -/
  halted : Bool
  /-- `fault_cause`: a code of R170 (R32). -/
  faultCause : Nibble
  /-- `fault_info` (R32). -/
  faultInfo : Word
  /-- The MODEL's own: the parameters of R4, which nothing changes (log 2). -/
  config : Config
  /-- The MODEL's own: step inputs (R5) that the host has supplied and no step has used, oldest first (log 3). -/
  inputs : List StepInput
  /-- The MODEL's own: how many free step inputs have been drawn (log 3). -/
  draws : Nat
  deriving DecidableEq, Repr

/-- The state after construction and after `reset()` of a machine with the parameters `cfg` (R34, R200). Memory lists
nothing: every address reads as its reset contents. -/
def State.resetOf (cfg : Config) : State where
  mem := []
  pc := 0
  v := Vector.replicate 16 0
  index := 0
  stack := Vector.replicate 16 0
  sp := 0
  dt := 0
  st := 0
  keys := Vector.replicate 16 false
  display := Vector.replicate 64 0
  highResolution := cfg.highRes
  needsRedraw := false
  halted := false
  faultCause := 0
  faultInfo := 0
  config := cfg
  inputs := []
  draws := 0

/-- The machine right after reset, with the default of every parameter (R4, R34). -/
def State.reset : State := State.resetOf Config.default

/-- Why a step could stop without a next state. No meaning and no step raises one: every error of this hardware is a
fault ENTRY, which sets `halted`, `fault_cause` and `fault_info` and so is a next state (R98, R179, log 5). -/
inductive Fault where
  /-- An access outside addresses 0 to 4095. Raised by nobody: R56 and R92 check every range first and enter
  MEMORY_OUT_OF_BOUNDS or PC_OUT_OF_RANGE. safe (log 5). -/
  | outsideAddressSpace (address : Nat)
  deriving DecidableEq, Repr

/-- Why an instruction or a transaction has no effect. -/
inductive Refusal where
  /-- An arm of `exec` that has no meaning yet. Raised by nobody: every arm has its meaning. safe. -/
  | notModelled (mnemonic : String)
  /-- PROGRAM_TOO_LARGE: the host transaction `load` with `origin + len > 4096` (R178). Raised by `load` alone, never by
  an instruction or a step; the state does not change. safe: it is the spec's own refusal. -/
  | programTooLarge
  deriving DecidableEq, Repr

end Sys2Proof.Machine
end

