-- ==== Sys2Proof/Machine/Memory.lean ====
section
/-! DEFINITION. The 4096-byte memory as a canonical list (spec/20_memory.md R50, R51, R57): what an unlisted address reads
as, one read, one write, and the canonical form. -/

namespace Sys2Proof.Machine

/-- The size of memory: addresses 0 to 4095 (R4, R50). -/
def memorySize : Nat := 4096

/-- What an unlisted address reads as: the reset contents, FONT at 0 to 79 and zero above (R34, R52). The value of an
address above 4095 is never asked for: every rule checks its range first (R7, log 6). -/
def Memory.blank (font : Font) (a : Nat) : Byte := if h : a < 80 then font[a] else 0

/-- `mem[a]` (R7). -/
def Memory.read (font : Font) : Memory → Nat → Byte
  | [], a => Memory.blank font a
  | (b, w) :: m, a => if a = b then w else Memory.read font m a

/-- The list with the pair `(a, v)` put at its place. -/
def Memory.put (a : Nat) (v : Byte) : Memory → Memory
  | [] => [(a, v)]
  | (b, w) :: m =>
    if a < b then (a, v) :: (b, w) :: m else if a = b then (a, v) :: m else (b, w) :: Memory.put a v m

/-- The list with no pair for address `a`. -/
def Memory.drop (a : Nat) (m : Memory) : Memory := m.filter fun c => c.1 != a

/-- `mem[a] <- v` (R7, R57), keeping the canonical form. -/
def Memory.write (font : Font) (m : Memory) (a : Nat) (v : Byte) : Memory :=
  if v = Memory.blank font a then Memory.drop a m else Memory.put a v m

/-- The addresses of a list rise strictly. -/
def Memory.rising : Memory → Bool
  | [] => true
  | (_, _) :: [] => true
  | (a, _) :: (b, w) :: m => decide (a < b) && Memory.rising ((b, w) :: m)

/-- The canonical form: addresses strictly rising and inside memory, no entry equal to what an unlisted address
reads as. -/
def Memory.wf (font : Font) (m : Memory) : Bool :=
  Memory.rising m && m.all fun c => decide (c.1 < memorySize) && c.2 != Memory.blank font c.1

end Sys2Proof.Machine
end

