-- ==== Sys2Proof/Machine/Ops.lean ====
section
/-! DEFINITION. The named operations over registers, memory, stack, keys and display; the engine's phases around a handler
(spec/40_engine_step.md R90 to R98); the timer governor (spec/60_exceptions.md R183); and THE fault entry (R179). -/

namespace Sys2Proof.Machine

/-! Registers -/

/-- `V[x]` (R7, R21). -/
def State.getV (s : State) (x : Nibble) : Byte := s.v[x.toNat]'x.isLt

/-- `V[x] <- b` (R7, R21). -/
def State.setV (s : State) (x : Nibble) (b : Byte) : State := { s with v := s.v.set x.toNat b x.isLt }

/-- The number of VF, the flag register (R22). -/
def vf : Nibble := 15

/-- `pc <- w` (R7). -/
def State.setPc (s : State) (w : Word) : State := { s with pc := w }

/-- `I <- w` (R7). -/
def State.setIndex (s : State) (w : Word) : State := { s with index := w }

/-- `dt <- b` (R7). -/
def State.setDt (s : State) (b : Byte) : State := { s with dt := b }

/-- `st <- b` (R7). -/
def State.setSt (s : State) (b : Byte) : State := { s with st := b }

/-! Memory -/

/-- `mem[a]` (R7, R57). -/
def State.readByte (s : State) (a : Nat) : Byte := Memory.read s.config.font s.mem a

/-- `mem[a] <- b` (R7, R57). -/
def State.writeByte (s : State) (a : Nat) (b : Byte) : State :=
  { s with mem := Memory.write s.config.font s.mem a b }

/-- A data access of `k` bytes at `base` is in bounds: its last byte is not above 4095; an access of no byte always is.
The sum is on natural numbers, without wrap or mask (R56). -/
def inBounds (base k : Nat) : Bool := decide (k = 0 ∨ base + k - 1 ≤ 4095)

/-- The bytes of a list written at consecutive addresses, the first at `a` (R54, R202). -/
def State.writeBytes (s : State) (a : Nat) : List Byte → State
  | [] => s
  | b :: bs => (s.writeByte a b).writeBytes (a + 1) bs

/-- `V[0]` to `V[count - 1]` stored at `base` and up (R144). -/
def State.storeRegs (s : State) (base : Nat) : Nat → State
  | 0 => s
  | k + 1 => (s.storeRegs base k).writeByte (base + k) (s.getV (BitVec.ofNat 4 k))

/-- `V[0]` to `V[count - 1]` loaded from `base` and up (R145). -/
def State.loadRegs (s : State) (base : Nat) : Nat → State
  | 0 => s
  | k + 1 => (s.loadRegs base k).setV (BitVec.ofNat 4 k) (s.readByte (base + k))

/-! Stack -/

/-- `stack[k]` (R7, R25). -/
def State.slot (s : State) (k : Nibble) : Word := s.stack[k.toNat]'k.isLt

/-- CALL's push: `sp <- sp + 1; stack[sp] <- w`. The caller has checked `sp < 15` (R103). -/
def State.push (s : State) (w : Word) : State :=
  { s with sp := s.sp + 1, stack := s.stack.set (s.sp + 1).toNat w (s.sp + 1).isLt }

/-- RET's `sp <- sp - 1`; the slot keeps its value. The caller has checked `sp > 0` (R25, R101). -/
def State.pop (s : State) : State := { s with sp := s.sp - 1 }

/-! Keys -/

/-- `keys[k]` (R7, R27). -/
def State.keyHeld (s : State) (k : Nibble) : Bool := s.keys[k.toNat]'k.isLt

/-- The key numbers in rising order (R27). -/
def keyNumbers : List Nibble := [0, 1, 2, 3, 4, 5, 6, 7, 8, 9, 10, 11, 12, 13, 14, 15]

/-- "the least such k" with `keys[k] = 1`, if there is one (R163). -/
def State.leastKeyHeld (s : State) : Option Nibble := keyNumbers.find? s.keyHeld

/-! Display -/

/-- `display[r][c]`: column `c` is bit `127 - c` of row `r` (R7, R28). -/
def Display.pixel (d : Display) (r c : Nat) : Bool :=
  if h : r < 64 then decide (c < 128) && d[r].getLsbD (127 - c) else false

/-- The row mask with only column `c` set (R28). -/
def columnMask (c : Nat) : BitVec 128 := 1#128 <<< (127 - c)

/-- `display[r][c] <- display[r][c] XOR 1`, for `r < 64` and `c < 128` (R28, R151). -/
def Display.flip (d : Display) (r c : Nat) : Display :=
  if h : r < 64 then d.set r (d[r] ^^^ columnMask c) h else d

/-- `W`, the active row width (R152). -/
def State.frameWidth (s : State) : Nat := if s.highResolution then 128 else 64

/-- `H`, the active height (R152). -/
def State.frameHeight (s : State) : Nat := if s.highResolution then 64 else 32

/-- The display under a sprite being drawn, and `hit`: whether a lit pixel was turned off (R151). -/
structure Canvas where
  display : Display
  hit : Bool
  deriving DecidableEq, Repr

/-- One set sprite pixel put on the canvas: note a collision, then XOR (R151). -/
def Canvas.plot (cv : Canvas) (r c : Nat) : Canvas :=
  ⟨cv.display.flip r c, cv.hit || cv.display.pixel r c⟩

/-- Pixels 0 to `count - 1` of the sprite row `b`, pixel `j` being bit `7 - j` (R153), drawn on row `r` from column `vx`,
each reduced by the width (R151). -/
def Canvas.drawRow (cv : Canvas) (width r vx : Nat) (b : Byte) : Nat → Canvas
  | 0 => cv
  | j + 1 =>
    let cv' := cv.drawRow width r vx b j
    if b.getLsbD (7 - j) then cv'.plot r ((vx + j) % width) else cv'

/-- Sprite rows 0 to `count - 1`, row `i` being the byte at `I + i`, drawn from row `vy`, each reduced by the height
(R151). -/
def State.drawRows (s : State) (vx vy : Nat) : Nat → Canvas
  | 0 => ⟨s.display, false⟩
  | i + 1 =>
    (s.drawRows vx vy i).drawRow s.frameWidth ((vy + i) % s.frameHeight) vx (s.readByte (s.index.toNat + i)) 8

/-! The step input -/

/-- The input of the step at hand (R5): the oldest one the host has supplied, or else a free value (log 3). -/
def State.stepInput (s : State) : StepInput :=
  match s.inputs with
  | inp :: _ => inp
  | [] => Config.freeInput s.draws

/-- The step input is used up: the next step has another one (R5, R97, log 3). -/
def State.useInput (s : State) : State :=
  { s with inputs := s.inputs.tail, draws := if s.inputs.isEmpty then s.draws + 1 else s.draws }

/-! The engine's phases around a handler -/

/-- FETCH: the big-endian word at `pc`, or nothing when `pc + 1 >= 4096` (R53, R92). -/
def State.fetch (s : State) : Option Word :=
  if s.pc.toNat + 1 ≥ 4096 then none
  else some (wordOfBytes (s.readByte s.pc.toNat) (s.readByte (s.pc.toNat + 1)))

/-- ADVANCE: `pc <- pc + 2`, on the `pc` the handler left (R94). -/
def State.advance (s : State) : State := { s with pc := s.pc + 2 }

/-- A timer decremented "toward zero", "never below zero" (R26, R183). -/
def countDown (b : Byte) : Byte := if b.toNat > 0 then b - 1 else b

/-- The Timer Governor (R183). -/
def State.timerGovernor (s : State) : State := { s with dt := countDown s.dt, st := countDown s.st }

/-- TIMER: the governor runs once if `tick = 1` (R95, R183). Said timer by timer, so that no other field depends on the
tick bit. -/
def State.timerPhase (s : State) : State :=
  { s with dt := if s.stepInput.tick then s.timerGovernor.dt else s.dt,
           st := if s.stepInput.tick then s.timerGovernor.st else s.st }

/-- The code of a cause (R170). -/
def Cause.code : Cause → Nibble
  | .pcOutOfRange => 1
  | .unknownOpcode => 2
  | .stackOverflow => 3
  | .stackUnderflow => 4
  | .memoryOutOfBounds => 5
  | .keyIndexOutOfRange => 6
  | .waitKeyUnimplemented => 7

/-- THE fault entry, `raise <Fault>(info)`: `halted`, `fault_cause` and `fault_info` are set and nothing else changes;
`pc` stays, there is no advance and no timer phase (R7, R98, R179). -/
def State.raise (s : State) (c : Cause) (info : Word) : State :=
  { s with halted := true, faultCause := c.code, faultInfo := info }

/-- What the handler of an instruction answers (R90). -/
inductive Handled where
  /-- The handler ran: ADVANCE and TIMER follow. -/
  | done (t : State)
  /-- LD Vx,K under `poll` with no key held: TIMER follows, ADVANCE does not (R163). -/
  | waiting (t : State)
  /-- The handler raised a fault before it wrote anything (R98). -/
  | raises (c : Cause) (info : Word)
  deriving DecidableEq, Repr

/-- The rest of the step after the handler, from the state `s` at entry (R90). There is no return from a fault: only
`reset()` leaves it (R182). -/
def State.finish (s : State) : Handled → Host.Outcome State Fault Refusal
  | .done t => .next t.advance.timerPhase.useInput
  | .waiting t => .next t.timerPhase.useInput
  | .raises c info => .next (s.raise c info)

end Sys2Proof.Machine
end

