-- ==== Sys2Proof/Machine/Operands.lean ====
section
/-! DEFINITION. The operand forms (spec/30_encoding.md R73, spec/42_alu.md R132): register operands are latched before the
handler writes anything; literals are used as the unsigned numbers their bits spell. -/

namespace Sys2Proof.Machine

/-- `zext_16` of an address literal `nnn` (R73). -/
def zextAddr (nnn : Addr12) : Word := nnn.setWidth 16

/-- `zext_16` of a register value (R108, R141, R142). -/
def zextByte (b : Byte) : Word := b.setWidth 16

/-- The target of JP V0,nnn: `zext_16(nnn) + zext_16(v0)` (R108). -/
def jumpOffsetTarget (s : State) (nnn : Addr12) : Word := zextAddr nnn + zextByte (s.getV 0)

/-- The effective address of the memory instructions: `I` as a natural number (R56). -/
def baseAddress (s : State) : Nat := s.index.toNat

/-- The key that `Vx` names, when `Vx <= 15` (R160, R161). -/
def keyOperand (s : State) (x : Nibble) : Option Nibble :=
  if (s.getV x).toNat > 15 then none else some (BitVec.ofNat 4 (s.getV x).toNat)

/-- The hundreds, tens and ones of a byte (R143). -/
def bcdDigits (b : Byte) : List Byte :=
  [BitVec.ofNat 8 (b.toNat / 100), BitVec.ofNat 8 (b.toNat / 10 % 10), BitVec.ofNat 8 (b.toNat % 10)]

/-- The byte of the random source in this step (R5, R131). -/
def randOperand (s : State) : Byte := s.stepInput.rand

/-- The extra `pc <- pc + 2` of a taken skip (R94, R104). -/
def skipIf (taken : Bool) (s : State) : State := if taken then s.setPc (s.pc + 2) else s

end Sys2Proof.Machine
end

