-- ==== Sys2Proof/Machine/Flags.lean ====
section
/-! DEFINITION. Every flag computation (spec/10_state.md R22, spec/42_alu.md R126 to R130): VF becomes 1 or 0. -/

namespace Sys2Proof.Machine

/-- A condition as the byte that VF takes (R22). -/
def flagByte (c : Bool) : Byte := if c then 1 else 0

/-- ADD Vx,Vy: "1 if Vx + Vy > 255 else 0" (R126). -/
def carryFlag (a b : Byte) : Byte := flagByte (decide (a.toNat + b.toNat > 255))

/-- SUB: "1 if Vx > Vy else 0", strictly (R127). -/
def greaterFlag (a b : Byte) : Byte := flagByte (decide (a.toNat > b.toNat))

/-- SUBN: "1 if Vx < Vy else 0", strictly (R129). -/
def lessFlag (a b : Byte) : Byte := flagByte (decide (a.toNat < b.toNat))

/-- SHR: bit 0, the bit shifted out (R128). -/
def lowBitFlag (a : Byte) : Byte := flagByte (a.getLsbD 0)

/-- SHL: bit 7, the bit shifted out (R130). -/
def highBitFlag (a : Byte) : Byte := flagByte (a.getLsbD 7)

/-- The flag is written first and the result second, so with `x = 15` the result wins (R132). -/
def State.setFlagThen (s : State) (x : Nibble) (flag result : Byte) : State := (s.setV vf flag).setV x result

/-- DRW sets VF on a collision and otherwise leaves it: it never clears it (R151). -/
def State.setCollision (s : State) (hit : Bool) : State := if hit then s.setV vf 1 else s

end Sys2Proof.Machine
end

