-- ==== Sys2Proof/Machine/Alu.lean ====
section
/-! DEFINITION. Register load, arithmetic, logic, shift and random instructions (spec/42_alu.md R120 to R133). None of them
can fault. 8-bit addition and subtraction wrap modulo 256, as `BitVec` does (R8, R133). -/

namespace Sys2Proof.Machine

/-- LD Vx,kk (R120). -/
def handleLdVxKk (x : Nibble) (kk : Byte) (s : State) : Handled := .done (s.setV x kk)
/-- 6xkk (R120). -/
def execLdVxKk (x : Nibble) (kk : Byte) (s : State) : Host.Outcome State Fault Refusal :=
  s.finish (handleLdVxKk x kk s)

/-- ADD Vx,kk (R121): no flag. -/
def handleAddVxKk (x : Nibble) (kk : Byte) (s : State) : Handled := .done (s.setV x (s.getV x + kk))
/-- 7xkk (R121). -/
def execAddVxKk (x : Nibble) (kk : Byte) (s : State) : Host.Outcome State Fault Refusal :=
  s.finish (handleAddVxKk x kk s)

/-- LD Vx,Vy (R122). -/
def handleLdVxVy (x y : Nibble) (s : State) : Handled := .done (s.setV x (s.getV y))
/-- 8xy0 (R122). -/
def execLdVxVy (x y : Nibble) (s : State) : Host.Outcome State Fault Refusal := s.finish (handleLdVxVy x y s)

/-- OR Vx,Vy (R123): VF untouched. -/
def handleOrVxVy (x y : Nibble) (s : State) : Handled := .done (s.setV x (s.getV x ||| s.getV y))
/-- 8xy1 (R123). -/
def execOrVxVy (x y : Nibble) (s : State) : Host.Outcome State Fault Refusal := s.finish (handleOrVxVy x y s)

/-- AND Vx,Vy (R124): VF untouched. -/
def handleAndVxVy (x y : Nibble) (s : State) : Handled := .done (s.setV x (s.getV x &&& s.getV y))
/-- 8xy2 (R124). -/
def execAndVxVy (x y : Nibble) (s : State) : Host.Outcome State Fault Refusal := s.finish (handleAndVxVy x y s)

/-- XOR Vx,Vy (R125): VF untouched. -/
def handleXorVxVy (x y : Nibble) (s : State) : Handled := .done (s.setV x (s.getV x ^^^ s.getV y))
/-- 8xy3 (R125). -/
def execXorVxVy (x y : Nibble) (s : State) : Host.Outcome State Fault Refusal := s.finish (handleXorVxVy x y s)

/-- ADD Vx,Vy (R126): VF is the carry out. -/
def handleAddVxVy (x y : Nibble) (s : State) : Handled :=
  .done (s.setFlagThen x (carryFlag (s.getV x) (s.getV y)) (s.getV x + s.getV y))
/-- 8xy4 (R126). -/
def execAddVxVy (x y : Nibble) (s : State) : Host.Outcome State Fault Refusal := s.finish (handleAddVxVy x y s)

/-- SUB Vx,Vy (R127): VF = (Vx > Vy). -/
def handleSubVxVy (x y : Nibble) (s : State) : Handled :=
  .done (s.setFlagThen x (greaterFlag (s.getV x) (s.getV y)) (s.getV x - s.getV y))
/-- 8xy5 (R127). -/
def execSubVxVy (x y : Nibble) (s : State) : Host.Outcome State Fault Refusal := s.finish (handleSubVxVy x y s)

/-- SHR Vx (R128): a logical shift of `Vx` in place; `y` is ignored. -/
def handleShrVx (x _y : Nibble) (s : State) : Handled :=
  .done (s.setFlagThen x (lowBitFlag (s.getV x)) (s.getV x >>> 1))
/-- 8xy6 (R128). -/
def execShrVx (x y : Nibble) (s : State) : Host.Outcome State Fault Refusal := s.finish (handleShrVx x y s)

/-- SUBN Vx,Vy (R129): the result is `Vx - Vy`, as SUB's; VF = (Vx < Vy) (conflict C4). -/
def handleSubnVxVy (x y : Nibble) (s : State) : Handled :=
  .done (s.setFlagThen x (lessFlag (s.getV x) (s.getV y)) (s.getV x - s.getV y))
/-- 8xy7 (R129). -/
def execSubnVxVy (x y : Nibble) (s : State) : Host.Outcome State Fault Refusal := s.finish (handleSubnVxVy x y s)

/-- SHL Vx (R130): a shift of `Vx` in place; `y` is ignored. -/
def handleShlVx (x _y : Nibble) (s : State) : Handled :=
  .done (s.setFlagThen x (highBitFlag (s.getV x)) (s.getV x <<< 1))
/-- 8xyE (R130). -/
def execShlVx (x y : Nibble) (s : State) : Host.Outcome State Fault Refusal := s.finish (handleShlVx x y s)

/-- RND Vx,kk (R131): the step input `rand` under the mask `kk`. -/
def handleRndVxKk (x : Nibble) (kk : Byte) (s : State) : Handled := .done (s.setV x (randOperand s &&& kk))
/-- Cxkk (R131). -/
def execRndVxKk (x : Nibble) (kk : Byte) (s : State) : Host.Outcome State Fault Refusal :=
  s.finish (handleRndVxKk x kk s)

end Sys2Proof.Machine
end

