-- ==== Sys2Proof/Machine/Control.lean ====
section
/-! DEFINITION. Control flow (spec/41_control_flow.md R100 to R108). A handler sees `pc` as the address of the instruction;
the engine adds 2 afterwards (`State.finish`). -/

namespace Sys2Proof.Machine

/-- HALT (R100): the sentinel; `fault_cause` stays 0. -/
def handleHalt (_nnn : Addr12) (s : State) : Handled := .done { s with halted := true }
/-- 0nnn (R100). -/
def execHalt (nnn : Addr12) (s : State) : Host.Outcome State Fault Refusal := s.finish (handleHalt nnn s)

/-- RET (R101): STACK_UNDERFLOW at `sp = 0`, before anything is written. -/
def handleRet (s : State) : Handled :=
  if s.sp = 0 then .raises .stackUnderflow (encode .ret) else .done (s.setPc (s.slot s.sp)).pop
/-- 00EE (R101). -/
def execRet (s : State) : Host.Outcome State Fault Refusal := s.finish (handleRet s)

/-- JP nnn (R102). -/
def handleJp (nnn : Addr12) (s : State) : Handled := .done (s.setPc (zextAddr nnn))
/-- 1nnn (R102). -/
def execJp (nnn : Addr12) (s : State) : Host.Outcome State Fault Refusal := s.finish (handleJp nnn s)

/-- CALL nnn (R103): pushes its own address; STACK_OVERFLOW at `sp = 15`, before anything is written. -/
def handleCall (nnn : Addr12) (s : State) : Handled :=
  if s.sp = 15 then .raises .stackOverflow (encode (.call nnn))
  else .done ((s.push s.pc).setPc (zextAddr nnn))
/-- 2nnn (R103). -/
def execCall (nnn : Addr12) (s : State) : Host.Outcome State Fault Refusal := s.finish (handleCall nnn s)

/-- SE Vx,kk (R104). -/
def handleSeVxKk (x : Nibble) (kk : Byte) (s : State) : Handled := .done (skipIf (s.getV x == kk) s)
/-- 3xkk (R104). -/
def execSeVxKk (x : Nibble) (kk : Byte) (s : State) : Host.Outcome State Fault Refusal :=
  s.finish (handleSeVxKk x kk s)

/-- SNE Vx,kk (R105). -/
def handleSneVxKk (x : Nibble) (kk : Byte) (s : State) : Handled := .done (skipIf (s.getV x != kk) s)
/-- 4xkk (R105). -/
def execSneVxKk (x : Nibble) (kk : Byte) (s : State) : Host.Outcome State Fault Refusal :=
  s.finish (handleSneVxKk x kk s)

/-- SE Vx,Vy (R106). -/
def handleSeVxVy (x y : Nibble) (s : State) : Handled := .done (skipIf (s.getV x == s.getV y) s)
/-- 5xy0 (R106). -/
def execSeVxVy (x y : Nibble) (s : State) : Host.Outcome State Fault Refusal := s.finish (handleSeVxVy x y s)

/-- SNE Vx,Vy (R107). -/
def handleSneVxVy (x y : Nibble) (s : State) : Handled := .done (skipIf (s.getV x != s.getV y) s)
/-- 9xy0 (R107). -/
def execSneVxVy (x y : Nibble) (s : State) : Host.Outcome State Fault Refusal := s.finish (handleSneVxVy x y s)

/-- JP V0,nnn (R108). -/
def handleJpV0Nnn (nnn : Addr12) (s : State) : Handled := .done (s.setPc (jumpOffsetTarget s nnn))
/-- Bnnn (R108). -/
def execJpV0Nnn (nnn : Addr12) (s : State) : Host.Outcome State Fault Refusal := s.finish (handleJpV0Nnn nnn s)

end Sys2Proof.Machine
end

