-- ==== Sys2Proof/Machine/Draw.lean ====
section
/-! DEFINITION. Display instructions (spec/44_display.md R150 to R153). -/

namespace Sys2Proof.Machine

/-- CLS (R150): all 64 rows in both modes; `needs_redraw` is not written. -/
def handleCls (s : State) : Handled := .done { s with display := Vector.replicate 64 0 }
/-- 00E0 (R150). -/
def execCls (s : State) : Host.Outcome State Fault Refusal := s.finish (handleCls s)

/-- The state with a drawn canvas: the display, the collision flag, and `needs_redraw` set (R151). -/
def State.showCanvas (s : State) (cv : Canvas) : State :=
  { s with display := cv.display, needsRedraw := true }.setCollision cv.hit

/-- DRW Vx,Vy,n (R151): the coordinates are the register values at entry; a draw of no row sets `needs_redraw` too. -/
def handleDrwVxVyN (x y n : Nibble) (s : State) : Handled :=
  if inBounds (baseAddress s) n.toNat then
    .done (s.showCanvas (s.drawRows (s.getV x).toNat (s.getV y).toNat n.toNat))
  else .raises .memoryOutOfBounds (encode (.drwVxVyN x y n))
/-- Dxyn (R151). -/
def execDrwVxVyN (x y n : Nibble) (s : State) : Host.Outcome State Fault Refusal := s.finish (handleDrwVxVyN x y n s)

end Sys2Proof.Machine
end

