-- ==== Sys2Proof/Machine/Index.lean ====
section
/-! DEFINITION. Index register and memory transfer instructions (spec/43_index_memory.md R140 to R145). The whole byte
range is checked before the first access (R56). -/

namespace Sys2Proof.Machine

/-- LD I,nnn (R140). -/
def handleLdINnn (nnn : Addr12) (s : State) : Handled := .done (s.setIndex (zextAddr nnn))
/-- Annn (R140). -/
def execLdINnn (nnn : Addr12) (s : State) : Host.Outcome State Fault Refusal := s.finish (handleLdINnn nnn s)

/-- ADD I,Vx (R141): modulo 65536, no flag. -/
def handleAddIVx (x : Nibble) (s : State) : Handled := .done (s.setIndex (s.index + zextByte (s.getV x)))
/-- Fx1E (R141). -/
def execAddIVx (x : Nibble) (s : State) : Host.Outcome State Fault Refusal := s.finish (handleAddIVx x s)

/-- LD F,Vx (R142): no mask on `Vx`, no memory access. -/
def handleLdFVx (x : Nibble) (s : State) : Handled := .done (s.setIndex (zextByte (s.getV x) * 5))
/-- Fx29 (R142). -/
def execLdFVx (x : Nibble) (s : State) : Host.Outcome State Fault Refusal := s.finish (handleLdFVx x s)

/-- LD B,Vx (R143): hundreds, tens, ones at `I`, `I + 1`, `I + 2`. -/
def handleLdBVx (x : Nibble) (s : State) : Handled :=
  if inBounds (baseAddress s) 3 then .done (s.writeBytes (baseAddress s) (bcdDigits (s.getV x)))
  else .raises .memoryOutOfBounds (encode (.ldBVx x))
/-- Fx33 (R143). -/
def execLdBVx (x : Nibble) (s : State) : Host.Outcome State Fault Refusal := s.finish (handleLdBVx x s)

/-- LD [I],Vx (R144): `V[0]` to `V[x - 1]`; `V[x]` is not stored, `I` is unchanged. -/
def handleLdMemVx (x : Nibble) (s : State) : Handled :=
  if inBounds (baseAddress s) x.toNat then .done (s.storeRegs (baseAddress s) x.toNat)
  else .raises .memoryOutOfBounds (encode (.ldMemVx x))
/-- Fx55 (R144). -/
def execLdMemVx (x : Nibble) (s : State) : Host.Outcome State Fault Refusal := s.finish (handleLdMemVx x s)

/-- LD Vx,[I] (R145): `V[0]` to `V[x - 1]`; `V[x]` is not loaded, `I` is unchanged. -/
def handleLdVxMem (x : Nibble) (s : State) : Handled :=
  if inBounds (baseAddress s) x.toNat then .done (s.loadRegs (baseAddress s) x.toNat)
  else .raises .memoryOutOfBounds (encode (.ldVxMem x))
/-- Fx65 (R145). -/
def execLdVxMem (x : Nibble) (s : State) : Host.Outcome State Fault Refusal := s.finish (handleLdVxMem x s)

end Sys2Proof.Machine
end

