-- ==== Sys2Proof/Machine/Input.lean ====
section
/-! DEFINITION. Key input and timer instructions (spec/45_input_timers.md R160 to R166). -/

namespace Sys2Proof.Machine

/-- SKP Vx (R160): KEY_INDEX_OUT_OF_RANGE when `Vx > 15`. -/
def handleSkpVx (x : Nibble) (s : State) : Handled :=
  match keyOperand s x with
  | none => .raises .keyIndexOutOfRange (encode (.skpVx x))
  | some k => .done (skipIf (s.keyHeld k) s)
/-- Ex9E (R160). -/
def execSkpVx (x : Nibble) (s : State) : Host.Outcome State Fault Refusal := s.finish (handleSkpVx x s)

/-- SKNP Vx (R161): KEY_INDEX_OUT_OF_RANGE when `Vx > 15`. -/
def handleSknpVx (x : Nibble) (s : State) : Handled :=
  match keyOperand s x with
  | none => .raises .keyIndexOutOfRange (encode (.sknpVx x))
  | some k => .done (skipIf (!s.keyHeld k) s)
/-- ExA1 (R161). -/
def execSknpVx (x : Nibble) (s : State) : Host.Outcome State Fault Refusal := s.finish (handleSknpVx x s)

/-- LD Vx,K under `WAITKEY_POLICY = poll` (R163): the least key held, or wait with no advance. -/
def pollKey (x : Nibble) (s : State) : Handled :=
  match s.leastKeyHeld with
  | some k => .done (s.setV x (k.setWidth 8))
  | none => .waiting s

/-- LD Vx,K (R162, R163). -/
def handleLdVxK (x : Nibble) (s : State) : Handled :=
  match s.config.waitKeyPolicy with
  | .fault => .raises .waitKeyUnimplemented (encode (.ldVxK x))
  | .poll => pollKey x s
/-- Fx0A (R162, R163). -/
def execLdVxK (x : Nibble) (s : State) : Host.Outcome State Fault Refusal := s.finish (handleLdVxK x s)

/-- LD Vx,DT (R164): `dt` before this step's timer phase. -/
def handleLdVxDt (x : Nibble) (s : State) : Handled := .done (s.setV x s.dt)
/-- Fx07 (R164). -/
def execLdVxDt (x : Nibble) (s : State) : Host.Outcome State Fault Refusal := s.finish (handleLdVxDt x s)

/-- LD DT,Vx (R165). -/
def handleLdDtVx (x : Nibble) (s : State) : Handled := .done (s.setDt (s.getV x))
/-- Fx15 (R165). -/
def execLdDtVx (x : Nibble) (s : State) : Host.Outcome State Fault Refusal := s.finish (handleLdDtVx x s)

/-- LD ST,Vx (R166). -/
def handleLdStVx (x : Nibble) (s : State) : Handled := .done (s.setSt (s.getV x))
/-- Fx18 (R166). -/
def execLdStVx (x : Nibble) (s : State) : Host.Outcome State Fault Refusal := s.finish (handleLdStVx x s)

end Sys2Proof.Machine
end

