-- ==== Sys2Proof/Machine/Step.lean ====
section
/-! DEFINITION. One step (spec/40_engine_step.md R90), and the placing of a first instruction. -/

namespace Sys2Proof.Machine

/-- `step` (R90): CHECK, FETCH, DECODE, and then the instruction with the phases after it. A halted core does not change
(R91); a failed fetch raises PC_OUT_OF_RANGE (R92); a reserved word raises UNKNOWN_OPCODE (R93). -/
def step (s : State) : Host.Outcome State Fault Refusal :=
  if s.halted then .next s
  else
    match s.fetch with
    | none => .next (s.raise .pcOutOfRange s.pc)
    | some ir =>
      match decodeWord ir with
      | .error _ => .next (s.raise .unknownOpcode ir)
      | .ok i => exec i s

/-- `s` with the instruction of table word `w` where the next step fetches. It stands for the host's `load` (R202): the
two bytes go to `pc` and `pc + 1`. Where no fetch could happen, `pc` moves to the default ORIGIN and `halted` is
cleared (log 7). -/
def State.withFetchWord (s : State) (nbits w : Nat) : State :=
  let at' : Word := if s.pc.toNat + 1 < 4096 then s.pc else 0x200
  ({ s with pc := at', halted := false }.writeByte at'.toNat (highByte (tableWord nbits w))).writeByte
    (at'.toNat + 1) (lowByte (tableWord nbits w))

end Sys2Proof.Machine
end

