-- ==== Sys2Proof/Machine/Handlers.lean ====
section
/-! DEFINITION. The opcode handlers side by side (spec/40_engine_step.md R93): what phase EXECUTE alone does. `exec` is
each handler followed by the rest of the step. -/

namespace Sys2Proof.Machine

/-- Phase EXECUTE: "run the handler of row" (R90). -/
def handle (i : Instr) (s : State) : Handled :=
  match i with
  | .cls => handleCls s
  | .ret => handleRet s
  | .halt nnn => handleHalt nnn s
  | .jp nnn => handleJp nnn s
  | .call nnn => handleCall nnn s
  | .seVxKk x kk => handleSeVxKk x kk s
  | .sneVxKk x kk => handleSneVxKk x kk s
  | .seVxVy x y => handleSeVxVy x y s
  | .ldVxKk x kk => handleLdVxKk x kk s
  | .addVxKk x kk => handleAddVxKk x kk s
  | .ldVxVy x y => handleLdVxVy x y s
  | .orVxVy x y => handleOrVxVy x y s
  | .andVxVy x y => handleAndVxVy x y s
  | .xorVxVy x y => handleXorVxVy x y s
  | .addVxVy x y => handleAddVxVy x y s
  | .subVxVy x y => handleSubVxVy x y s
  | .shrVx x y => handleShrVx x y s
  | .subnVxVy x y => handleSubnVxVy x y s
  | .shlVx x y => handleShlVx x y s
  | .sneVxVy x y => handleSneVxVy x y s
  | .ldINnn nnn => handleLdINnn nnn s
  | .jpV0Nnn nnn => handleJpV0Nnn nnn s
  | .rndVxKk x kk => handleRndVxKk x kk s
  | .drwVxVyN x y n => handleDrwVxVyN x y n s
  | .skpVx x => handleSkpVx x s
  | .sknpVx x => handleSknpVx x s
  | .ldVxDt x => handleLdVxDt x s
  | .ldVxK x => handleLdVxK x s
  | .ldDtVx x => handleLdDtVx x s
  | .ldStVx x => handleLdStVx x s
  | .addIVx x => handleAddIVx x s
  | .ldFVx x => handleLdFVx x s
  | .ldBVx x => handleLdBVx x s
  | .ldMemVx x => handleLdMemVx x s
  | .ldVxMem x => handleLdVxMem x s

end Sys2Proof.Machine
end

