-- ==== Sys2Proof/Machine/Engine.lean ====
section
/-! DEFINITION. The engine as the state machine of spec/40_engine_step.md R96: the phases inside one step, in their order.
They carry no timing; only IDLE and HALTED are visible to the host. The step of Machine/Step.lean is the model; this is
the same step cut into its phases. -/

namespace Sys2Proof.Machine

/-- The phase states of R96, each with the state of the core as it stands then. FETCH, DECODE and EXECUTE keep the state
at entry to the step, which is what a fault changes (R98). -/
inductive Phase where
  | idle (s : State)
  | fetch (s : State)
  | decode (s : State) (ir : Word)
  | execute (s : State) (i : Instr)
  | advance (t : State)
  | timer (t : State)
  | halted (s : State)
  deriving DecidableEq, Repr

/-- The phase after a phase, within a `step` transaction (R90, R96). -/
def Phase.following : Phase → Phase
  | .idle s => if s.halted then .halted s else .fetch s
  | .fetch s =>
    match s.fetch with
    | none => .halted (s.raise .pcOutOfRange s.pc)
    | some ir => .decode s ir
  | .decode s ir =>
    match decodeWord ir with
    | .error _ => .halted (s.raise .unknownOpcode ir)
    | .ok i => .execute s i
  | .execute s i =>
    match handle i s with
    | .done t => .advance t
    | .waiting t => .timer t
    | .raises c info => .halted (s.raise c info)
  | .advance t => .timer t.advance
  | .timer t =>
    let u := t.timerPhase.useInput
    if u.halted then .halted u else .idle u
  | .halted s => .halted s

/-- `k` phases on. -/
def Phase.after : Nat → Phase → Phase
  | 0, p => p
  | k + 1, p => Phase.after k p.following

/-- Where the engine rests between transactions: HALTED or IDLE (R96). -/
def restPhase (s : State) : Phase := if s.halted then .halted s else .idle s

end Sys2Proof.Machine
end

