-- ==== Sys2Proof/Machine/Transactions.lean ====
section
/-! DEFINITION. The boundary of the core: the host's atomic transactions (spec/00_scope.md R9, spec/70_reset_and_hazards.md
R200 to R207, spec/40_engine_step.md R90, R97). -/

namespace Sys2Proof.Machine

/-- `reset()`: every piece of state to its reset value, for the machine's own parameters (R200). The count of free inputs
drawn goes on, so that what the environment answers after a reset is not tied to what it answered before (log 3). -/
def State.hostReset (s : State) : State := { State.resetOf s.config with draws := s.draws }

/-- `load(origin, bytes)` (R202): refused when `origin + len > 4096`, with nothing changed (R178); otherwise the bytes go to
`origin` and up, `pc` becomes `origin`, and nothing else changes. -/
def State.load (s : State) (origin : Addr12) (bytes : List Byte) : Host.Outcome State Fault Refusal :=
  if origin.toNat + bytes.length > memorySize then .refused .programTooLarge
  else .next ((s.writeBytes origin.toNat bytes).setPc (zextAddr origin))

/-- `load` at the configured ORIGIN (R4, R202). -/
def State.loadAtOrigin (s : State) (bytes : List Byte) : Host.Outcome State Fault Refusal :=
  s.load s.config.origin bytes

/-- `set_key(k, pressed)` (R204). -/
def State.setKey (s : State) (k : Nibble) (pressed : Bool) : State :=
  { s with keys := s.keys.set k.toNat pressed k.isLt }

/-- `clear_redraw()` (R205). -/
def State.clearRedraw (s : State) : State := { s with needsRedraw := false }

/-- `step(rand, tick)`: a step whose input the host supplies (R5, R90). The supplied input is gone after the step, used or
not (R91), and the queue of inputs is as it was. -/
def stepWith (inp : StepInput) (s : State) : Host.Outcome State Fault Refusal :=
  match step { s with inputs := [inp] } with
  | .next t => .next { t with inputs := s.inputs }
  | .fault r => .fault r
  | .refused r => .refused r

/-- The state an outcome leaves: a refused transaction leaves the state it was given (R178). -/
def stateAfter (before : State) : Host.Outcome State Fault Refusal → State
  | .next t => t
  | .fault _ => before
  | .refused _ => before

/-- `run(n, inputs)`: consecutive steps, one for each input (R97). -/
def runWith : List StepInput → State → Host.Outcome State Fault Refusal
  | [], s => .next s
  | inp :: rest, s =>
    match stepWith inp s with
    | .next t => runWith rest t
    | .fault r => .fault r
    | .refused r => .refused r

/-- The transactions of R9. The operand types admit exactly the transactions of the interface: an origin from 0 to 4095
and a key from 0 to 15 (R202, R204). -/
inductive Transaction where
  | reset
  | load (origin : Addr12) (bytes : List Byte)
  | setKey (k : Nibble) (pressed : Bool)
  | clearRedraw
  | step (inp : StepInput)
  | run (inputs : List StepInput)
  /-- A read of any state element: "A read never changes state" (R206); what it answers is the field of `State`. -/
  | read
  deriving DecidableEq, Repr

/-- One transaction. -/
def Transaction.perform (tr : Transaction) (s : State) : Host.Outcome State Fault Refusal :=
  match tr with
  | .reset => .next s.hostReset
  | .load origin bytes => s.load origin bytes
  | .setKey k pressed => .next (s.setKey k pressed)
  | .clearRedraw => .next s.clearRedraw
  | .step inp => stepWith inp s
  | .run inputs => runWith inputs s
  | .read => .next s

/-- The state after a sequence of transactions: "one total order of all transactions" (R59). -/
def afterAll (s : State) (trs : List Transaction) : State :=
  trs.foldl (fun t tr => stateAfter t (tr.perform t)) s

end Sys2Proof.Machine
end

