-- ==== Sys2Proof/Safety.lean ====
section
/-! DEFINITION. The terms that claims use: how a run ends (spec/60_exceptions.md R189), the parts of the state and what it
means that one is unchanged (spec/10_state.md R20), the sprite as a set of pixels (spec/44_display.md R151), the launch state
(spec/70_reset_and_hazards.md R203), and the invariant of the machine (R36). -/

namespace Sys2Proof.Machine

/-! The end of a run -/

/-- "The run has ended properly when halted = 1 and fault_cause = 0" (R189). -/
def State.ProperEnd (s : State) : Prop := s.halted = true ∧ s.faultCause = 0

/-- A run that has gone wrong: halted with a non-zero cause (R189). -/
def State.Faulted (s : State) : Prop := s.halted = true ∧ s.faultCause ≠ 0

/-! Parts of the state -/

/-- The parts of the state, for saying what an instruction leaves unchanged. `fault` is `fault_cause` and `fault_info`,
`timers` is `dt` and `st`. The model's own queue of step inputs is no part. -/
inductive Part where
  | mem | pc | regs | index | stack | sp | timers | keys | display | highResolution | needsRedraw | halted | fault
  | config
  deriving DecidableEq, Repr

/-- The part `p` is the same in both states. Memory is compared byte by byte. -/
def Part.same (p : Part) (s t : State) : Prop :=
  match p with
  | .mem => ∀ a : Nat, t.readByte a = s.readByte a
  | .pc => t.pc = s.pc
  | .regs => ∀ r : Nibble, t.getV r = s.getV r
  | .index => t.index = s.index
  | .stack => ∀ k : Nibble, t.slot k = s.slot k
  | .sp => t.sp = s.sp
  | .timers => t.dt = s.dt ∧ t.st = s.st
  | .keys => ∀ k : Nibble, t.keyHeld k = s.keyHeld k
  | .display => ∀ r c : Nat, t.display.pixel r c = s.display.pixel r c
  | .highResolution => t.highResolution = s.highResolution
  | .needsRedraw => t.needsRedraw = s.needsRedraw
  | .halted => t.halted = s.halted
  | .fault => t.faultCause = s.faultCause ∧ t.faultInfo = s.faultInfo
  | .config => t.config = s.config

/-- Every part but those listed is the same in both states. -/
def SameBut (changed : List Part) (s t : State) : Prop := ∀ p : Part, p ∉ changed → p.same s t

/-- The parts an instruction may write when it does not fault: the "written by" column of R20. The engine writes `pc`
and the timers after every instruction (R94, R95). -/
def writtenParts : Instr → List Part
  | .cls => [.pc, .timers, .display]
  | .ret => [.pc, .timers, .sp]
  | .halt _ => [.pc, .timers, .halted]
  | .call _ => [.pc, .timers, .sp, .stack]
  | .jp _ | .jpV0Nnn _ | .seVxKk _ _ | .sneVxKk _ _ | .seVxVy _ _ | .sneVxVy _ _ | .skpVx _ | .sknpVx _
  | .ldDtVx _ | .ldStVx _ => [.pc, .timers]
  | .ldVxKk _ _ | .addVxKk _ _ | .ldVxVy _ _ | .orVxVy _ _ | .andVxVy _ _ | .xorVxVy _ _ | .addVxVy _ _
  | .subVxVy _ _ | .shrVx _ _ | .subnVxVy _ _ | .shlVx _ _ | .rndVxKk _ _ | .ldVxDt _ | .ldVxK _
  | .ldVxMem _ => [.pc, .timers, .regs]
  | .ldINnn _ | .addIVx _ | .ldFVx _ => [.pc, .timers, .index]
  | .drwVxVyN _ _ _ => [.pc, .timers, .regs, .display, .needsRedraw]
  | .ldBVx _ | .ldMemVx _ => [.pc, .timers, .mem]

/-- The general registers an instruction may write: `Vx` where `x` is the destination, VF where it is the flag (R22), and
`V[0]` to `V[x - 1]` for LD Vx,[I] (R145). -/
def mayWriteReg (i : Instr) (r : Nibble) : Prop :=
  match i with
  | .ldVxKk x _ | .addVxKk x _ | .ldVxVy x _ | .orVxVy x _ | .andVxVy x _ | .xorVxVy x _ | .rndVxKk x _
  | .ldVxDt x | .ldVxK x => r = x
  | .addVxVy x _ | .subVxVy x _ | .shrVx x _ | .subnVxVy x _ | .shlVx x _ => r = x ∨ r = vf
  | .drwVxVyN _ _ _ => r = vf
  | .ldVxMem x => r.toNat < x.toNat
  | _ => False

/-- The state a step leaves is the fault entry for cause `c` and information `info`: `halted`, `fault_cause` and
`fault_info` are set, and every other field, the model's own too, is as at entry (R98, R179). -/
def FaultEntry (s : State) (c : Nat) (info : Word) (t : State) : Prop :=
  t = { s with halted := true, faultCause := BitVec.ofNat 4 c, faultInfo := info }

/-! Timers -/

/-- What a timer holds after the timer phase, `v` being what it held before: one less when the tick bit is set and it was
above zero (R95, R183). -/
def ticked (tick : Bool) (v : Byte) : Nat := if tick = true ∧ 0 < v.toNat then v.toNat - 1 else v.toNat

/-! Sprites -/

/-- Sprite pixel `(i, j)` is set: bit `7 - j` of the byte at `I + i` (R153). -/
def spriteBit (s : State) (i j : Nat) : Bool := (s.readByte (s.index.toNat + i)).getLsbD (7 - j)

/-- The sprite of `n` rows at column `vx` and row `vy` covers buffer pixel (row `r`, column `c`): some set sprite pixel
lands there after the wrap in both directions (R151). -/
def covers (s : State) (vx vy n r c : Nat) : Prop :=
  ∃ i j : Nat, i < n ∧ j < 8 ∧ spriteBit s i j = true ∧
    r = (vy + i) % s.frameHeight ∧ c = (vx + j) % s.frameWidth

/-! Launch -/

/-- The launch state of R203: reset, one successful `load` of the image at the origin, and any keys set. -/
def LaunchState (cfg : Config) (origin : Addr12) (image : List Byte) (s : State) : Prop :=
  ∃ t : State, (State.resetOf cfg).load origin image = .next t ∧ s = { t with keys := s.keys }

/-! The invariant -/

/-- What holds in every state reachable from reset by the transactions: the bounds of R36, the canonical form of memory,
`high_resolution` equal to HIGH_RES (R29), a legal and explained fault record (R31, R32, R170), and the unused part of a
low-resolution display dark (R28). -/
structure State.Inv (s : State) : Prop where
  pcBound : s.pc.toNat ≤ 0x1100
  slotBound : ∀ k : Nibble, (s.slot k).toNat ≤ 4094
  slotZero : s.slot 0 = 0
  memWf : Memory.wf s.config.font s.mem = true
  highRes : s.highResolution = s.config.highRes
  causeBound : s.faultCause.toNat ≤ 7
  causeHalts : s.faultCause ≠ 0 → s.halted = true
  noCauseNoInfo : s.faultCause = 0 → s.faultInfo = 0
  lowResDark : s.highResolution = false →
    ∀ r c : Nat, 32 ≤ r ∨ 64 ≤ c → s.display.pixel r c = false

/-- A state reachable by a sequence of transactions from the reset state of some configuration (R36, R59). -/
def Reachable (s : State) : Prop := ∃ (cfg : Config) (trs : List Transaction), s = afterAll (State.resetOf cfg) trs

end Sys2Proof.Machine
end

