-- ==== Sys2Proof/Certificates/Slice0/Obligations.lean ====
section
/-! DEFINITION. The statements for the provers, each from the rules of spec/. A statement about one instruction says: its
word decodes to it; `exec` ANSWERS a next state for every state that meets the rule's own condition; what that state holds;
and its frame, `SameBut`: every part not listed is as before. The timers are left to TimersAfterEveryInstruction, since the
tick bit is the model's own input field (log 3), except where the rule itself speaks of them. -/

open Sys2Proof Sys2Proof.Machine

/-! ## Decoding -/

/-- R74, R75, R76: decoding the word of a well-formed instruction gives it back, for every instruction and every operand.
That HALT, SHR and SHL have the bits they ignore as operands is the model's choice (log 13). -/
def Obligations.DecodeOfEncodeIsIdentity : Prop :=
  ∀ i : Instr, i.wellFormed = true → decodeWord (encode i) = .ok i

/-- A word that decodes to an instruction is the word of that instruction, which is well-formed. It rests on the MODEL'S
CHOICE of log 13 (DESIGN CHOICE): HALT keeps its 12 bits and SHR and SHL their field `y`, bits that the spec only calls
ignored, so that the decoder drops no bit of a word. For the other rows it follows from the opcode map. With it a fault's
information `ir` can be rebuilt from the instruction (log 4). -/
def Obligations.EncodeOfDecodeIsIdentity : Prop :=
  ∀ (w : Word) (i : Instr), decodeWord w = .ok i → encode i = w ∧ i.wellFormed = true

/-- R77, decision D7: the reserved words are exactly those of its table, and a step that fetches one enters UNKNOWN_OPCODE,
code 2, with the word as information. -/
def Obligations.ReservedWordsAreExactlyTheTable : Prop :=
  (∀ op x y n : Nibble,
    (∃ e, decodeWord (packXyn op x y n) = .error e) ↔
      (op = 0x5 ∧ n ≠ 0) ∨
      (op = 0x8 ∧ (n = 0x8 ∨ n = 0x9 ∨ n = 0xA ∨ n = 0xB ∨ n = 0xC ∨ n = 0xD ∨ n = 0xF)) ∨
      (op = 0x9 ∧ n ≠ 0) ∨
      (op = 0xE ∧ ¬ (y = 0x9 ∧ n = 0xE) ∧ ¬ (y = 0xA ∧ n = 0x1)) ∨
      (op = 0xF ∧ ¬ (y = 0x0 ∧ n = 0x7) ∧ ¬ (y = 0x0 ∧ n = 0xA) ∧ ¬ (y = 0x1 ∧ n = 0x5) ∧ ¬ (y = 0x1 ∧ n = 0x8) ∧
        ¬ (y = 0x1 ∧ n = 0xE) ∧ ¬ (y = 0x2 ∧ n = 0x9) ∧ ¬ (y = 0x3 ∧ n = 0x3) ∧ ¬ (y = 0x5 ∧ n = 0x5) ∧
        ¬ (y = 0x6 ∧ n = 0x5))) ∧
  (∀ (s : State) (ir : Word) (e : DecodeError), s.halted = false → s.fetch = some ir → decodeWord ir = .error e →
    ∃ t : State, step s = .next t ∧ FaultEntry s 2 ir t)

/-- R75: words written out from the table decode to their rows, one of each format and each family of instructions. -/
def Obligations.SampleWordsDecode : Prop :=
  decodeWord 0x00E0 = .ok .cls ∧ decodeWord 0x00EE = .ok .ret ∧ decodeWord 0x00E1 = .ok (.halt 0x0E1) ∧
  decodeWord 0x1234 = .ok (.jp 0x234) ∧ decodeWord 0x3A2C = .ok (.seVxKk 0xA 0x2C) ∧
  decodeWord 0x8274 = .ok (.addVxVy 2 7) ∧ decodeWord 0x820E = .ok (.shlVx 2 0) ∧
  decodeWord 0xA300 = .ok (.ldINnn 0x300) ∧ decodeWord 0xD01F = .ok (.drwVxVyN 0 1 15) ∧
  decodeWord 0xE29E = .ok (.skpVx 2) ∧ decodeWord 0xF333 = .ok (.ldBVx 3) ∧ decodeWord 0xFE65 = .ok (.ldVxMem 0xE)

/-! ## The step -/

/-- R90, R93: when the bytes at `pc` spell a word that decodes to an instruction, the step of a running core is `exec` of
that instruction at that very state; `exec` already holds the phases ADVANCE and TIMER, so the step adds nothing. -/
def Obligations.StepRunsTheDecodedInstruction : Prop :=
  ∀ (s : State) (i : Instr), s.halted = false → s.pc.toNat + 1 < 4096 →
    decodeWord (wordOfBytes (s.readByte s.pc.toNat) (s.readByte (s.pc.toNat + 1))) = .ok i →
    step s = exec i s

/-- R92, decision D4: with `pc + 1 >= 4096` the step of a running core raises PC_OUT_OF_RANGE, code 1, with `pc` as
information. -/
def Obligations.FetchOutOfRangeFaults : Prop :=
  ∀ s : State, s.halted = false → 4096 ≤ s.pc.toNat + 1 → ∃ t : State, step s = .next t ∧ FaultEntry s 1 s.pc t

/-- R53: the fetched word is `mem[pc] * 256 + mem[pc + 1]`. -/
def Obligations.FetchIsBigEndian : Prop :=
  ∀ s : State, s.pc.toNat + 1 < 4096 →
    ∃ ir : Word, s.fetch = some ir ∧
      ir.toNat = (s.readByte s.pc.toNat).toNat * 256 + (s.readByte (s.pc.toNat + 1)).toNat

/-- R91, decision D25: a step of a halted core changes nothing, whatever its input. -/
def Obligations.HaltedStepChangesNothing : Prop :=
  ∀ (s : State) (inp : StepInput), s.halted = true → step s = .next s ∧ stepWith inp s = .next s

/-- R90: `step` "takes the state S and the step input ... and gives the next state": it always answers a next state, and so
does every instruction. -/
def Obligations.EveryStepAnswersANextState : Prop :=
  (∀ s : State, ∃ t : State, step s = .next t) ∧
  (∀ (i : Instr) (s : State), ∃ t : State, exec i s = .next t)

/-- R98, R170, R179, R180, decision D13: a step of a running core with no fault on record that leaves a fault on record has
changed nothing else: the fault is one of the seven, and its information is `pc` for PC_OUT_OF_RANGE and the fetched word
for every other. -/
def Obligations.FaultsArePrecise : Prop :=
  ∀ s t : State, s.halted = false → s.faultCause = 0 → step s = .next t → t.faultCause ≠ 0 →
    (s.fetch = none ∧ FaultEntry s 1 s.pc t) ∨
    (∃ (ir : Word) (c : Nat), s.fetch = some ir ∧ 2 ≤ c ∧ c ≤ 7 ∧ FaultEntry s c ir t)

/-- R95, R183, decisions D14, D15: after every instruction that does not fault each timer is one less, never below zero, when
the step's tick bit is set, and as the handler left it when it is not; only LD DT and LD ST have left one changed. The tick
bit is the model's own input field (log 3). -/
def Obligations.TimersAfterEveryInstruction : Prop :=
  ∀ (i : Instr) (s t : State), exec i s = .next t →
    (∃ (c : Nat) (info : Word), 3 ≤ c ∧ c ≤ 7 ∧ FaultEntry s c info t) ∨
    (t.dt.toNat = ticked s.stepInput.tick (match i with | .ldDtVx x => s.getV x | _ => s.dt) ∧
      t.st.toNat = ticked s.stepInput.tick (match i with | .ldStVx x => s.getV x | _ => s.st))

/-- R20, R22, R25, R109: an instruction that does not fault writes only the parts in its "written by" column, and only the
general registers its rule names. -/
def Obligations.InstructionsWriteOnlyTheirColumn : Prop :=
  ∀ (i : Instr) (s t : State), exec i s = .next t →
    (∃ (c : Nat) (info : Word), 3 ≤ c ∧ c ≤ 7 ∧ FaultEntry s c info t) ∨
    (SameBut (writtenParts i) s t ∧ ∀ r : Nibble, ¬ mayWriteReg i r → t.getV r = s.getV r)

/-- R26, R184: no instruction reads `st`: two states that differ in `st` alone go to states that differ in `st` alone. -/
def Obligations.NoInstructionReadsSoundTimer : Prop :=
  ∀ (i : Instr) (s t u : State) (b : Byte), exec i s = .next t → exec i { s with st := b } = .next u →
    { u with st := t.st } = t

/-- R5, R131, decision D16: `rand` is read by RND alone: for every other instruction two step inputs that differ in `rand`
alone lead to the same state, the unused inputs of a faulting step apart (log 3). -/
def Obligations.OnlyRndReadsRand : Prop :=
  ∀ (i : Instr) (s t u : State) (a b : Byte) (tick : Bool), (∀ x kk, i ≠ .rndVxKk x kk) →
    exec i { s with inputs := [⟨a, tick⟩] } = .next t → exec i { s with inputs := [⟨b, tick⟩] } = .next u →
    { t with inputs := [] } = { u with inputs := [] }

/-- R90, R96: the engine's phases, from IDLE or HALTED, come to rest within six moves in the state that `step` gives. -/
def Obligations.EnginePhasesRefineStep : Prop :=
  ∀ s t : State, step s = .next t → ∃ k : Nat, 1 ≤ k ∧ k ≤ 6 ∧ Phase.after k (restPhase s) = restPhase t

/-! ## The invariant -/

/-- R34, R36: the invariant holds of the reset state of every configuration. -/
def Obligations.ResetStateMeetsInvariant : Prop := ∀ cfg : Config, (State.resetOf cfg).Inv

/-- R28, R29, R31, R32, R36: every step keeps the invariant. -/
def Obligations.EveryStepKeepsInvariant : Prop := ∀ s t : State, s.Inv → step s = .next t → t.Inv

/-- R36, R202: every transaction of the host keeps the invariant, a refused one too. -/
def Obligations.EveryTransactionKeepsInvariant : Prop :=
  ∀ (s : State) (tr : Transaction), s.Inv → (stateAfter s (tr.perform s)).Inv

/-- R36: (a) to (d) in every state reachable from reset by the transactions. -/
def Obligations.ReachableStatesMeetBounds : Prop :=
  ∀ s : State, Reachable s →
    s.pc.toNat ≤ 0x1100 ∧ (∀ k : Nibble, (s.slot k).toNat ≤ 4094) ∧ s.slot 0 = 0 ∧ s.sp.toNat ≤ 15

/-! ## Control flow -/

/-- R100, decision D14: HALT sets `halted`, is no fault, and still advances. -/
def Obligations.HaltStopsProperly : Prop :=
  ∀ (nnn : Addr12) (s : State),
    (nnn ≠ 0x0E0 → nnn ≠ 0x0EE → decodeWord (packNnn 0x0 nnn) = .ok (.halt nnn)) ∧
    ∃ t : State, exec (.halt nnn) s = .next t ∧ t.halted = true ∧ t.pc = s.pc + 2 ∧
      SameBut [.halted, .pc, .timers] s t

/-- R101, decision D11: RET takes `pc` from `stack[sp]`, steps `sp` down, and lands 2 further on; with an empty stack it
enters STACK_UNDERFLOW, code 4. -/
def Obligations.RetReturns : Prop :=
  decodeWord 0x00EE = .ok .ret ∧
  ∀ s : State,
    if s.sp.toNat = 0 then ∃ t : State, exec .ret s = .next t ∧ FaultEntry s 4 0x00EE t
    else ∃ t : State, exec .ret s = .next t ∧ t.pc = s.slot s.sp + 2 ∧ t.sp.toNat = s.sp.toNat - 1 ∧
      SameBut [.pc, .sp, .timers] s t

/-- R102: JP leaves `pc = nnn + 2`; with `nnn >= 0xFFD` that is 4095 or more. -/
def Obligations.JpLandsTwoPastTarget : Prop :=
  ∀ (nnn : Addr12) (s : State),
    decodeWord (packNnn 0x1 nnn) = .ok (.jp nnn) ∧
    ∃ t : State, exec (.jp nnn) s = .next t ∧ t.pc.toNat = nnn.toNat + 2 ∧
      (0xFFD ≤ nnn.toNat → 4095 ≤ t.pc.toNat) ∧ SameBut [.pc, .timers] s t

/-- R103, decision D11: CALL steps `sp` up, stores its own address in the new top slot and leaves `pc = nnn + 2`; at depth
15 it enters STACK_OVERFLOW, code 3. -/
def Obligations.CallPushesItsOwnAddress : Prop :=
  ∀ (nnn : Addr12) (s : State),
    decodeWord (packNnn 0x2 nnn) = .ok (.call nnn) ∧
    if s.sp.toNat = 15 then ∃ t : State, exec (.call nnn) s = .next t ∧ FaultEntry s 3 (packNnn 0x2 nnn) t
    else ∃ t : State, exec (.call nnn) s = .next t ∧ t.sp.toNat = s.sp.toNat + 1 ∧ t.slot t.sp = s.pc ∧
      (∀ k : Nibble, k ≠ t.sp → t.slot k = s.slot k) ∧ t.pc.toNat = nnn.toNat + 2 ∧
      SameBut [.pc, .sp, .stack, .timers] s t

/-- R104: SE Vx,kk. -/
def Obligations.SeVxKkSkipsOnEqual : Prop :=
  ∀ (x : Nibble) (kk : Byte) (s : State),
    decodeWord (packXkk 0x3 x kk) = .ok (.seVxKk x kk) ∧
    ∃ t : State, exec (.seVxKk x kk) s = .next t ∧ t.pc = s.pc + (if s.getV x = kk then 4 else 2) ∧
      SameBut [.pc, .timers] s t

/-- R105: SNE Vx,kk. -/
def Obligations.SneVxKkSkipsOnUnequal : Prop :=
  ∀ (x : Nibble) (kk : Byte) (s : State),
    decodeWord (packXkk 0x4 x kk) = .ok (.sneVxKk x kk) ∧
    ∃ t : State, exec (.sneVxKk x kk) s = .next t ∧ t.pc = s.pc + (if s.getV x = kk then 2 else 4) ∧
      SameBut [.pc, .timers] s t

/-- R106: SE Vx,Vy; a non-zero last nibble is reserved. -/
def Obligations.SeVxVySkipsOnEqual : Prop :=
  ∀ (x y : Nibble) (s : State),
    decodeWord (packXyn 0x5 x y 0x0) = .ok (.seVxVy x y) ∧
    (∀ n : Nibble, n ≠ 0 → decodeWord (packXyn 0x5 x y n) = .error (.unknownOpcode (packXyn 0x5 x y n))) ∧
    ∃ t : State, exec (.seVxVy x y) s = .next t ∧ t.pc = s.pc + (if s.getV x = s.getV y then 4 else 2) ∧
      SameBut [.pc, .timers] s t

/-- R107: SNE Vx,Vy; a non-zero last nibble is reserved. -/
def Obligations.SneVxVySkipsOnUnequal : Prop :=
  ∀ (x y : Nibble) (s : State),
    decodeWord (packXyn 0x9 x y 0x0) = .ok (.sneVxVy x y) ∧
    (∀ n : Nibble, n ≠ 0 → decodeWord (packXyn 0x9 x y n) = .error (.unknownOpcode (packXyn 0x9 x y n))) ∧
    ∃ t : State, exec (.sneVxVy x y) s = .next t ∧ t.pc = s.pc + (if s.getV x = s.getV y then 2 else 4) ∧
      SameBut [.pc, .timers] s t

/-- R108, decision D2: JP V0,nnn leaves `pc = nnn + V0 + 2`, not reduced to 12 bits. -/
def Obligations.JpV0AddsOffset : Prop :=
  ∀ (nnn : Addr12) (s : State),
    decodeWord (packNnn 0xB nnn) = .ok (.jpV0Nnn nnn) ∧
    ∃ t : State, exec (.jpV0Nnn nnn) s = .next t ∧ t.pc.toNat = nnn.toNat + (s.getV 0).toNat + 2 ∧
      SameBut [.pc, .timers] s t

/-- R101, R103, R109 (example S4): a CALL and the RET that follows it come back to the instruction after the CALL, with the
stack pointer as before. -/
def Obligations.RetUndoesCall : Prop :=
  ∀ (nnn : Addr12) (s t u : State), s.sp.toNat ≠ 15 → exec (.call nnn) s = .next t → exec .ret t = .next u →
    u.pc = s.pc + 2 ∧ SameBut [.pc, .stack, .timers] s u ∧ (∀ k : Nibble, k ≠ s.sp + 1 → u.slot k = s.slot k)

/-! ## Registers, arithmetic, logic, shifts, random -/

/-- R120: LD Vx,kk. -/
def Obligations.LdVxKkLoadsLiteral : Prop :=
  ∀ (x : Nibble) (kk : Byte) (s : State),
    decodeWord (packXkk 0x6 x kk) = .ok (.ldVxKk x kk) ∧
    ∃ t : State, exec (.ldVxKk x kk) s = .next t ∧ t.getV x = kk ∧ (∀ r : Nibble, r ≠ x → t.getV r = s.getV r) ∧
      t.pc = s.pc + 2 ∧ SameBut [.regs, .pc, .timers] s t

/-- R121: ADD Vx,kk wraps modulo 256 and writes no flag. -/
def Obligations.AddVxKkWrapsWithoutFlag : Prop :=
  ∀ (x : Nibble) (kk : Byte) (s : State),
    decodeWord (packXkk 0x7 x kk) = .ok (.addVxKk x kk) ∧
    ∃ t : State, exec (.addVxKk x kk) s = .next t ∧ (t.getV x).toNat = ((s.getV x).toNat + kk.toNat) % 256 ∧
      (∀ r : Nibble, r ≠ x → t.getV r = s.getV r) ∧ t.pc = s.pc + 2 ∧ SameBut [.regs, .pc, .timers] s t

/-- R122: LD Vx,Vy. -/
def Obligations.LdVxVyCopies : Prop :=
  ∀ (x y : Nibble) (s : State),
    decodeWord (packXyn 0x8 x y 0x0) = .ok (.ldVxVy x y) ∧
    ∃ t : State, exec (.ldVxVy x y) s = .next t ∧ t.getV x = s.getV y ∧ (∀ r : Nibble, r ≠ x → t.getV r = s.getV r) ∧
      t.pc = s.pc + 2 ∧ SameBut [.regs, .pc, .timers] s t

/-- R123, R124, R125: OR, AND and XOR, bit by bit; VF is not written. -/
def Obligations.LogicIsBitwiseWithoutFlag : Prop :=
  ∀ (x y : Nibble) (s : State),
    (decodeWord (packXyn 0x8 x y 0x1) = .ok (.orVxVy x y) ∧
      ∃ t : State, exec (.orVxVy x y) s = .next t ∧
        (∀ k : Nat, k < 8 → (t.getV x).getLsbD k = ((s.getV x).getLsbD k || (s.getV y).getLsbD k)) ∧
        (∀ r : Nibble, r ≠ x → t.getV r = s.getV r) ∧ t.pc = s.pc + 2 ∧ SameBut [.regs, .pc, .timers] s t) ∧
    (decodeWord (packXyn 0x8 x y 0x2) = .ok (.andVxVy x y) ∧
      ∃ t : State, exec (.andVxVy x y) s = .next t ∧
        (∀ k : Nat, k < 8 → (t.getV x).getLsbD k = ((s.getV x).getLsbD k && (s.getV y).getLsbD k)) ∧
        (∀ r : Nibble, r ≠ x → t.getV r = s.getV r) ∧ t.pc = s.pc + 2 ∧ SameBut [.regs, .pc, .timers] s t) ∧
    (decodeWord (packXyn 0x8 x y 0x3) = .ok (.xorVxVy x y) ∧
      ∃ t : State, exec (.xorVxVy x y) s = .next t ∧
        (∀ k : Nat, k < 8 → (t.getV x).getLsbD k = ((s.getV x).getLsbD k ^^ (s.getV y).getLsbD k)) ∧
        (∀ r : Nibble, r ≠ x → t.getV r = s.getV r) ∧ t.pc = s.pc + 2 ∧ SameBut [.regs, .pc, .timers] s t)

/-- R126; with `x = 15` the result stays in VF and the flag is lost, which is the spec's decision D10 (R132). -/
def Obligations.AddVxVySetsCarry : Prop :=
  ∀ (x y : Nibble) (s : State),
    decodeWord (packXyn 0x8 x y 0x4) = .ok (.addVxVy x y) ∧
    ∃ t : State, exec (.addVxVy x y) s = .next t ∧
      (t.getV x).toNat = ((s.getV x).toNat + (s.getV y).toNat) % 256 ∧
      (x ≠ 15 → (t.getV 15).toNat = if (s.getV x).toNat + (s.getV y).toNat > 255 then 1 else 0) ∧
      (∀ r : Nibble, r ≠ x → r ≠ 15 → t.getV r = s.getV r) ∧
      t.pc = s.pc + 2 ∧ SameBut [.regs, .pc, .timers] s t

/-- R127; with `x = 15` the result stays in VF and the flag is lost, which is the spec's decision D10 (R132). -/
def Obligations.SubVxVySetsGreaterFlag : Prop :=
  ∀ (x y : Nibble) (s : State),
    decodeWord (packXyn 0x8 x y 0x5) = .ok (.subVxVy x y) ∧
    ∃ t : State, exec (.subVxVy x y) s = .next t ∧
      (t.getV x).toNat = ((s.getV x).toNat + 256 - (s.getV y).toNat) % 256 ∧
      (x ≠ 15 → (t.getV 15).toNat = if (s.getV x).toNat > (s.getV y).toNat then 1 else 0) ∧
      (∀ r : Nibble, r ≠ x → r ≠ 15 → t.getV r = s.getV r) ∧
      t.pc = s.pc + 2 ∧ SameBut [.regs, .pc, .timers] s t

/-- R128: `Vx` shifted in place, whatever `y` is; with `x = 15` the result stays in VF, decision D10 (R132). -/
def Obligations.ShrVxShiftsInPlace : Prop :=
  ∀ (x y : Nibble) (s : State),
    decodeWord (packXyn 0x8 x y 0x6) = .ok (.shrVx x y) ∧
    ∃ t : State, exec (.shrVx x y) s = .next t ∧ (t.getV x).toNat = (s.getV x).toNat / 2 ∧
      (x ≠ 15 → (t.getV 15).toNat = (s.getV x).toNat % 2) ∧
      (∀ r : Nibble, r ≠ x → r ≠ 15 → t.getV r = s.getV r) ∧
      t.pc = s.pc + 2 ∧ SameBut [.regs, .pc, .timers] s t

/-- R129, conflict C4, decision D27: the result is `Vx - Vy`, the flag `Vx < Vy`; with `x = 15` the result stays in VF,
decision D10 (R132). -/
def Obligations.SubnVxVySetsLessFlag : Prop :=
  ∀ (x y : Nibble) (s : State),
    decodeWord (packXyn 0x8 x y 0x7) = .ok (.subnVxVy x y) ∧
    ∃ t : State, exec (.subnVxVy x y) s = .next t ∧
      (t.getV x).toNat = ((s.getV x).toNat + 256 - (s.getV y).toNat) % 256 ∧
      (x ≠ 15 → (t.getV 15).toNat = if (s.getV x).toNat < (s.getV y).toNat then 1 else 0) ∧
      (∀ r : Nibble, r ≠ x → r ≠ 15 → t.getV r = s.getV r) ∧
      t.pc = s.pc + 2 ∧ SameBut [.regs, .pc, .timers] s t

/-- R130: `Vx` shifted in place, whatever `y` is; with `x = 15` the result stays in VF, decision D10 (R132). -/
def Obligations.ShlVxShiftsInPlace : Prop :=
  ∀ (x y : Nibble) (s : State),
    decodeWord (packXyn 0x8 x y 0xE) = .ok (.shlVx x y) ∧
    ∃ t : State, exec (.shlVx x y) s = .next t ∧ (t.getV x).toNat = (s.getV x).toNat * 2 % 256 ∧
      (x ≠ 15 → (t.getV 15).toNat = (s.getV x).toNat / 128) ∧
      (∀ r : Nibble, r ≠ x → r ≠ 15 → t.getV r = s.getV r) ∧
      t.pc = s.pc + 2 ∧ SameBut [.regs, .pc, .timers] s t

/-- R131, decision D16: `Vx` becomes the step input `rand`, whatever it is, under the mask `kk`. -/
def Obligations.RndMasksTheRandomByte : Prop :=
  ∀ (x : Nibble) (kk : Byte) (s : State),
    decodeWord (packXkk 0xC x kk) = .ok (.rndVxKk x kk) ∧
    ∃ t : State, exec (.rndVxKk x kk) s = .next t ∧
      (∀ k : Nat, k < 8 → (t.getV x).getLsbD k = (s.stepInput.rand.getLsbD k && kk.getLsbD k)) ∧
      (∀ r : Nibble, r ≠ x → t.getV r = s.getV r) ∧ t.pc = s.pc + 2 ∧ SameBut [.regs, .pc, .timers] s t

/-! ## Index register and memory -/

/-- R140: LD I,nnn. -/
def Obligations.LdILoadsAddress : Prop :=
  ∀ (nnn : Addr12) (s : State),
    decodeWord (packNnn 0xA nnn) = .ok (.ldINnn nnn) ∧
    ∃ t : State, exec (.ldINnn nnn) s = .next t ∧ t.index.toNat = nnn.toNat ∧ t.pc = s.pc + 2 ∧
      SameBut [.index, .pc, .timers] s t

/-- R141, decision D5: ADD I,Vx keeps 16 bits and writes no flag. -/
def Obligations.AddIVxWrapsAtSixteenBits : Prop :=
  ∀ (x : Nibble) (s : State),
    decodeWord (packXkk 0xF x 0x1E) = .ok (.addIVx x) ∧
    ∃ t : State, exec (.addIVx x) s = .next t ∧ t.index.toNat = (s.index.toNat + (s.getV x).toNat) % 65536 ∧
      t.pc = s.pc + 2 ∧ SameBut [.index, .pc, .timers] s t

/-- R142, decision D28: LD F,Vx gives `5 * Vx` for every `Vx`. -/
def Obligations.LdFVxIsFiveTimesVx : Prop :=
  ∀ (x : Nibble) (s : State),
    decodeWord (packXkk 0xF x 0x29) = .ok (.ldFVx x) ∧
    ∃ t : State, exec (.ldFVx x) s = .next t ∧ t.index.toNat = (s.getV x).toNat * 5 ∧ t.pc = s.pc + 2 ∧
      SameBut [.index, .pc, .timers] s t

/-- R143, decision D6: the three decimal digits of `Vx` at `I`, `I + 1`, `I + 2` and no other byte changed; past the top of
memory, MEMORY_OUT_OF_BOUNDS, code 5, and no byte changed. -/
def Obligations.LdBVxStoresDecimalDigits : Prop :=
  ∀ (x : Nibble) (s : State),
    decodeWord (packXkk 0xF x 0x33) = .ok (.ldBVx x) ∧
    if s.index.toNat + 2 > 4095 then
      ∃ t : State, exec (.ldBVx x) s = .next t ∧ FaultEntry s 5 (packXkk 0xF x 0x33) t
    else ∃ t : State, exec (.ldBVx x) s = .next t ∧
      (t.readByte s.index.toNat).toNat * 100 + (t.readByte (s.index.toNat + 1)).toNat * 10 +
        (t.readByte (s.index.toNat + 2)).toNat = (s.getV x).toNat ∧
      (t.readByte s.index.toNat).toNat ≤ 2 ∧ (t.readByte (s.index.toNat + 1)).toNat ≤ 9 ∧
      (t.readByte (s.index.toNat + 2)).toNat ≤ 9 ∧
      (∀ a : Nat, a < s.index.toNat ∨ s.index.toNat + 2 < a → t.readByte a = s.readByte a) ∧
      t.pc = s.pc + 2 ∧ SameBut [.mem, .pc, .timers] s t

/-- R144, decisions D6, D23: `V[0]` to `V[x - 1]` at `I` and up, `V[x]` not, `I` unchanged; past the top of memory,
MEMORY_OUT_OF_BOUNDS, code 5, and no byte changed. -/
def Obligations.LdMemVxStoresRegistersBelowX : Prop :=
  ∀ (x : Nibble) (s : State),
    decodeWord (packXkk 0xF x 0x55) = .ok (.ldMemVx x) ∧
    if 0 < x.toNat ∧ s.index.toNat + x.toNat - 1 > 4095 then
      ∃ t : State, exec (.ldMemVx x) s = .next t ∧ FaultEntry s 5 (packXkk 0xF x 0x55) t
    else ∃ t : State, exec (.ldMemVx x) s = .next t ∧
      (∀ k : Nibble, k.toNat < x.toNat → t.readByte (s.index.toNat + k.toNat) = s.getV k) ∧
      (∀ a : Nat, a < s.index.toNat ∨ s.index.toNat + x.toNat ≤ a → t.readByte a = s.readByte a) ∧
      t.pc = s.pc + 2 ∧ SameBut [.mem, .pc, .timers] s t

/-- R145, decisions D6, D23: `V[0]` to `V[x - 1]` from `I` and up, `V[x]` and above not, `I` unchanged; past the top of
memory, MEMORY_OUT_OF_BOUNDS, code 5, and no register changed. -/
def Obligations.LdVxMemLoadsRegistersBelowX : Prop :=
  ∀ (x : Nibble) (s : State),
    decodeWord (packXkk 0xF x 0x65) = .ok (.ldVxMem x) ∧
    if 0 < x.toNat ∧ s.index.toNat + x.toNat - 1 > 4095 then
      ∃ t : State, exec (.ldVxMem x) s = .next t ∧ FaultEntry s 5 (packXkk 0xF x 0x65) t
    else ∃ t : State, exec (.ldVxMem x) s = .next t ∧
      (∀ k : Nibble, t.getV k = if k.toNat < x.toNat then s.readByte (s.index.toNat + k.toNat) else s.getV k) ∧
      t.pc = s.pc + 2 ∧ SameBut [.regs, .pc, .timers] s t

/-- R61, R92, R144: a word stored by LD [I],Vx is what a fetch at that address reads in the state right after. -/
def Obligations.StoreIsSeenByNextFetch : Prop :=
  ∀ (x : Nibble) (s t : State), 2 ≤ x.toNat → s.index.toNat + x.toNat - 1 ≤ 4095 → exec (.ldMemVx x) s = .next t →
    { t with pc := s.index }.fetch = some (wordOfBytes (s.getV 0) (s.getV 1))

/-! ## Display -/

/-- R150, decision D22: CLS clears every pixel in both modes; `needs_redraw` and VF are not written. -/
def Obligations.ClsClearsEveryPixel : Prop :=
  decodeWord 0x00E0 = .ok .cls ∧
  ∀ s : State, ∃ t : State, exec .cls s = .next t ∧ (∀ r c : Nat, t.display.pixel r c = false) ∧ t.pc = s.pc + 2 ∧
    SameBut [.display, .pc, .timers] s t

/-- R151, R152, decisions D6, D12, D21, D22: DRW turns over exactly the pixels the sprite covers, sets VF when one of them
was lit and otherwise leaves it, and sets `needs_redraw`; past the top of memory, MEMORY_OUT_OF_BOUNDS, code 5. -/
def Obligations.DrwTurnsOverCoveredPixels : Prop :=
  ∀ (x y n : Nibble) (s : State),
    decodeWord (packXyn 0xD x y n) = .ok (.drwVxVyN x y n) ∧
    if 0 < n.toNat ∧ s.index.toNat + n.toNat - 1 > 4095 then
      ∃ t : State, exec (.drwVxVyN x y n) s = .next t ∧ FaultEntry s 5 (packXyn 0xD x y n) t
    else ∃ t : State, exec (.drwVxVyN x y n) s = .next t ∧
      (∀ r c : Nat, covers s (s.getV x).toNat (s.getV y).toNat n.toNat r c →
        t.display.pixel r c = !s.display.pixel r c) ∧
      (∀ r c : Nat, ¬ covers s (s.getV x).toNat (s.getV y).toNat n.toNat r c →
        t.display.pixel r c = s.display.pixel r c) ∧
      ((∃ r c : Nat, covers s (s.getV x).toNat (s.getV y).toNat n.toNat r c ∧ s.display.pixel r c = true) →
        t.getV 15 = 1) ∧
      ((¬ ∃ r c : Nat, covers s (s.getV x).toNat (s.getV y).toNat n.toNat r c ∧ s.display.pixel r c = true) →
        t.getV 15 = s.getV 15) ∧
      (∀ r : Nibble, r ≠ 15 → t.getV r = s.getV r) ∧ t.needsRedraw = true ∧ t.pc = s.pc + 2 ∧
      SameBut [.display, .regs, .needsRedraw, .pc, .timers] s t

/-- R151 (property S9): the same sprite drawn twice at the same place, neither coordinate being VF, leaves every pixel as it
was, and the second draw sets VF when the sprite has a set bit. -/
def Obligations.DrawingTwiceRestoresDisplay : Prop :=
  ∀ (x y n : Nibble) (s t u : State), x ≠ 15 → y ≠ 15 → (n.toNat = 0 ∨ s.index.toNat + n.toNat - 1 ≤ 4095) →
    exec (.drwVxVyN x y n) s = .next t → exec (.drwVxVyN x y n) t = .next u →
    (∀ r c : Nat, u.display.pixel r c = s.display.pixel r c) ∧
    ((∃ i j : Nat, i < n.toNat ∧ j < 8 ∧ spriteBit s i j = true) → u.getV 15 = 1)

/-! ## Keys and timers -/

/-- R160, decision D9: SKP skips when key `Vx` is held; `Vx > 15` enters KEY_INDEX_OUT_OF_RANGE, code 6. -/
def Obligations.SkpSkipsWhenKeyHeld : Prop :=
  ∀ (x : Nibble) (s : State),
    decodeWord (packXkk 0xE x 0x9E) = .ok (.skpVx x) ∧
    if (s.getV x).toNat > 15 then
      ∃ t : State, exec (.skpVx x) s = .next t ∧ FaultEntry s 6 (packXkk 0xE x 0x9E) t
    else ∃ t : State, exec (.skpVx x) s = .next t ∧
      (∀ k : Nibble, k.toNat = (s.getV x).toNat → t.pc = s.pc + (if s.keyHeld k = true then 4 else 2)) ∧
      SameBut [.pc, .timers] s t

/-- R161, decision D9: SKNP skips when key `Vx` is not held; `Vx > 15` enters KEY_INDEX_OUT_OF_RANGE, code 6. -/
def Obligations.SknpSkipsWhenKeyNotHeld : Prop :=
  ∀ (x : Nibble) (s : State),
    decodeWord (packXkk 0xE x 0xA1) = .ok (.sknpVx x) ∧
    if (s.getV x).toNat > 15 then
      ∃ t : State, exec (.sknpVx x) s = .next t ∧ FaultEntry s 6 (packXkk 0xE x 0xA1) t
    else ∃ t : State, exec (.sknpVx x) s = .next t ∧
      (∀ k : Nibble, k.toNat = (s.getV x).toNat → t.pc = s.pc + (if s.keyHeld k = true then 2 else 4)) ∧
      SameBut [.pc, .timers] s t

/-- R162, decision D8: under `WAITKEY_POLICY = fault` LD Vx,K enters WAIT_KEY_UNIMPLEMENTED, code 7. The policy is a field
of the model's configuration (log 2). -/
def Obligations.LdVxKFaultsUnderFaultPolicy : Prop :=
  ∀ (x : Nibble) (s : State), s.config.waitKeyPolicy = .fault →
    decodeWord (packXkk 0xF x 0x0A) = .ok (.ldVxK x) ∧
    ∃ t : State, exec (.ldVxK x) s = .next t ∧ FaultEntry s 7 (packXkk 0xF x 0x0A) t

/-- R163, decision D8: under `WAITKEY_POLICY = poll` LD Vx,K takes the least key held and advances; with none held it
changes nothing and stays at the instruction. The policy is a field of the model's configuration (log 2). -/
def Obligations.LdVxKPollsUnderPollPolicy : Prop :=
  ∀ (x : Nibble) (s : State), s.config.waitKeyPolicy = .poll →
    (∀ k : Nibble, s.keyHeld k = true → (∀ j : Nibble, j.toNat < k.toNat → s.keyHeld j = false) →
      ∃ t : State, exec (.ldVxK x) s = .next t ∧ (t.getV x).toNat = k.toNat ∧
        (∀ r : Nibble, r ≠ x → t.getV r = s.getV r) ∧ t.pc = s.pc + 2 ∧ SameBut [.regs, .pc, .timers] s t) ∧
    ((∀ k : Nibble, s.keyHeld k = false) →
      ∃ t : State, exec (.ldVxK x) s = .next t ∧ SameBut [.timers] s t)

/-- R164: LD Vx,DT reads `dt` before this step's timer phase. -/
def Obligations.LdVxDtReadsBeforeTick : Prop :=
  ∀ (x : Nibble) (s : State),
    decodeWord (packXkk 0xF x 0x07) = .ok (.ldVxDt x) ∧
    ∃ t : State, exec (.ldVxDt x) s = .next t ∧ t.getV x = s.dt ∧ t.dt.toNat = ticked s.stepInput.tick s.dt ∧
      (∀ r : Nibble, r ≠ x → t.getV r = s.getV r) ∧ t.pc = s.pc + 2 ∧ SameBut [.regs, .pc, .timers] s t

/-- R165: LD DT,Vx writes `dt`, and the timer phase of the same step follows the write. -/
def Obligations.LdDtVxWritesThenTicks : Prop :=
  ∀ (x : Nibble) (s : State),
    decodeWord (packXkk 0xF x 0x15) = .ok (.ldDtVx x) ∧
    ∃ t : State, exec (.ldDtVx x) s = .next t ∧ t.dt.toNat = ticked s.stepInput.tick (s.getV x) ∧
      t.st.toNat = ticked s.stepInput.tick s.st ∧ t.pc = s.pc + 2 ∧ SameBut [.pc, .timers] s t

/-- R166: LD ST,Vx writes `st`, and the timer phase of the same step follows the write. -/
def Obligations.LdStVxWritesThenTicks : Prop :=
  ∀ (x : Nibble) (s : State),
    decodeWord (packXkk 0xF x 0x18) = .ok (.ldStVx x) ∧
    ∃ t : State, exec (.ldStVx x) s = .next t ∧ t.st.toNat = ticked s.stepInput.tick (s.getV x) ∧
      t.dt.toNat = ticked s.stepInput.tick s.dt ∧ t.pc = s.pc + 2 ∧ SameBut [.pc, .timers] s t

/-! ## The host's transactions -/

/-- R34, R52, R200, decisions D17, D18: `reset()` puts every piece of state to its reset value, from whatever state. -/
def Obligations.ResetRestoresConstructionState : Prop :=
  ∀ s : State, ∃ t : State, Transaction.reset.perform s = .next t ∧
    (∀ (a : Nat) (h : a < 80), t.readByte a = s.config.font[a]) ∧
    (∀ a : Nat, 80 ≤ a → a ≤ 4095 → t.readByte a = 0) ∧
    t.pc = 0 ∧ (∀ r : Nibble, t.getV r = 0) ∧ t.index = 0 ∧ (∀ k : Nibble, t.slot k = 0) ∧ t.sp = 0 ∧
    t.dt = 0 ∧ t.st = 0 ∧ (∀ k : Nibble, t.keyHeld k = false) ∧ (∀ r c : Nat, t.display.pixel r c = false) ∧
    t.highResolution = s.config.highRes ∧ t.needsRedraw = false ∧ t.halted = false ∧ t.faultCause = 0 ∧
    t.faultInfo = 0 ∧ t.config = s.config

/-- R178, R202, decision D19: `load` copies the bytes, sets `pc = origin` and changes nothing else; an image that does not
fit is refused with PROGRAM_TOO_LARGE and changes nothing. -/
def Obligations.LoadCopiesOrRefuses : Prop :=
  ∀ (s : State) (origin : Addr12) (bytes : List Byte),
    if origin.toNat + bytes.length > 4096 then
      (Transaction.load origin bytes).perform s = .refused .programTooLarge ∧
      stateAfter s ((Transaction.load origin bytes).perform s) = s
    else ∃ t : State, (Transaction.load origin bytes).perform s = .next t ∧
      (∀ (k : Nat) (h : k < bytes.length), t.readByte (origin.toNat + k) = bytes[k]) ∧
      (∀ a : Nat, a < origin.toNat ∨ origin.toNat + bytes.length ≤ a → t.readByte a = s.readByte a) ∧
      t.pc.toNat = origin.toNat ∧ SameBut [.mem, .pc] s t

/-- R204, R205: `set_key` writes the one key and `clear_redraw` the one bit, and nothing else changes. -/
def Obligations.SetKeyAndClearRedrawWriteOneBit : Prop :=
  ∀ s : State,
    (∀ (k : Nibble) (pressed : Bool), ∃ t : State, (Transaction.setKey k pressed).perform s = .next t ∧
      t.keyHeld k = pressed ∧ (∀ r : Nibble, r ≠ k → t.keyHeld r = s.keyHeld r) ∧ SameBut [.keys] s t) ∧
    ∃ t : State, Transaction.clearRedraw.perform s = .next t ∧ t.needsRedraw = false ∧ SameBut [.needsRedraw] s t

/-- R31, R182, R188: no transaction but `reset` wakes a halted core or touches its fault record, and `step` and `run` change
nothing of it. -/
def Obligations.OnlyResetLeavesHalted : Prop :=
  ∀ (s : State) (tr : Transaction), s.halted = true → tr ≠ .reset →
    (stateAfter s (tr.perform s)).halted = true ∧
    (stateAfter s (tr.perform s)).faultCause = s.faultCause ∧
    (stateAfter s (tr.perform s)).faultInfo = s.faultInfo ∧
    (∀ inp : StepInput, tr = .step inp → tr.perform s = .next s) ∧
    (∀ inps : List StepInput, tr = .run inps → tr.perform s = .next s)
end

