-- ==== Sys2Proof/Laws/Decode.lean ====
section
/-! SUPPORT. Words as four nibbles: masks and equality nibble by nibble, the fields of a packed word, and a word as its
own fields (spec/30_encoding.md R71, R72). -/

namespace Sys2Proof

/-! The fields of a packed word -/

theorem getLsbD_packXyn (a b c d : Nibble) (i : Nat) : (packXyn a b c d).getLsbD i =
    if i < 4 then d.getLsbD i else if i < 8 then c.getLsbD (i - 4)
    else if i < 12 then b.getLsbD (i - 8) else a.getLsbD (i - 12) := by
  unfold packXyn
  simp only [BitVec.getLsbD_append, Nat.sub_sub]
  by_cases h4 : i < 4
  · simp only [if_pos h4]
  · by_cases h8 : i < 8
    · simp only [if_neg h4, if_pos h8, if_pos (by omega : i - 4 < 4)]
    · by_cases h12 : i < 12
      · simp only [if_neg h4, if_neg h8, if_pos h12, if_neg (by omega : ¬ i - 4 < 4),
          if_pos (by omega : i - (4 + 4) < 4)]
      · simp only [if_neg h4, if_neg h8, if_neg h12, if_neg (by omega : ¬ i - 4 < 4),
          if_neg (by omega : ¬ i - (4 + 4) < 4)]

/-- A mask works nibble by nibble. -/
theorem packXyn_and (a b c d a' b' c' d' : Nibble) :
    packXyn a b c d &&& packXyn a' b' c' d' = packXyn (a &&& a') (b &&& b') (c &&& c') (d &&& d') := by
  apply BitVec.eq_of_getLsbD_eq; intro i _
  simp only [BitVec.getLsbD_and, getLsbD_packXyn]
  split
  · rfl
  · split
    · rfl
    · split <;> rfl

theorem fieldN_packXyn (a b c d : Nibble) : fieldN (packXyn a b c d) = d := by
  apply BitVec.eq_of_getLsbD_eq; intro i hi
  simp [fieldN, getLsbD_packXyn, hi]

theorem fieldY_packXyn (a b c d : Nibble) : fieldY (packXyn a b c d) = c := by
  apply BitVec.eq_of_getLsbD_eq; intro i hi
  simp only [fieldY, BitVec.getLsbD_extractLsb', getLsbD_packXyn, hi, decide_true, Bool.true_and]
  rw [if_neg (by omega), if_pos (by omega), Nat.add_sub_cancel_left]

theorem fieldX_packXyn (a b c d : Nibble) : fieldX (packXyn a b c d) = b := by
  apply BitVec.eq_of_getLsbD_eq; intro i hi
  simp only [fieldX, BitVec.getLsbD_extractLsb', getLsbD_packXyn, hi, decide_true, Bool.true_and]
  rw [if_neg (by omega), if_neg (by omega), if_pos (by omega), Nat.add_sub_cancel_left]

/-- The family, bits 15 to 12 (R71). -/
def familyOf (w : Word) : Nibble := w.extractLsb' 12 4

theorem familyOf_packXyn (a b c d : Nibble) : familyOf (packXyn a b c d) = a := by
  apply BitVec.eq_of_getLsbD_eq; intro i hi
  simp only [familyOf, BitVec.getLsbD_extractLsb', getLsbD_packXyn, hi, decide_true, Bool.true_and]
  rw [if_neg (by omega), if_neg (by omega), if_neg (by omega), Nat.add_sub_cancel_left]

/-- Every word is its four nibbles. -/
theorem word_eq_packXyn (w : Word) : w = packXyn (familyOf w) (fieldX w) (fieldY w) (fieldN w) := by
  apply BitVec.eq_of_getLsbD_eq; intro i hi
  simp only [getLsbD_packXyn, familyOf, fieldX, fieldY, fieldN, BitVec.getLsbD_extractLsb']
  split
  · simp [*]
  · split
    · rw [decide_eq_true (by omega : i - 4 < 4), Bool.true_and]; congr 1; omega
    · split
      · rw [decide_eq_true (by omega : i - 8 < 4), Bool.true_and]; congr 1; omega
      · rw [decide_eq_true (by omega : i - 12 < 4), Bool.true_and]; congr 1; omega

/-- Packed words are equal exactly when their nibbles are. -/
theorem packXyn_inj {a b c d a' b' c' d' : Nibble} :
    packXyn a b c d = packXyn a' b' c' d' ↔ a = a' ∧ b = b' ∧ c = c' ∧ d = d' := by
  constructor
  · intro h
    refine ⟨?_, ?_, ?_, ?_⟩
    · simpa [familyOf_packXyn] using congrArg familyOf h
    · simpa [fieldX_packXyn] using congrArg fieldX h
    · simpa [fieldY_packXyn] using congrArg fieldY h
    · simpa [fieldN_packXyn] using congrArg fieldN h
  · rintro ⟨rfl, rfl, rfl, rfl⟩; rfl

/-! The other two formats as four nibbles: `kk = y ++ n`, `nnn = x ++ y ++ n` (R71) -/

theorem packXkk_eq (op x : Nibble) (kk : Byte) :
    packXkk op x kk = packXyn op x (kk.extractLsb' 4 4) (kk.extractLsb' 0 4) := by
  apply BitVec.eq_of_getLsbD_eq; intro i hi
  simp only [getLsbD_packXyn, packXkk, BitVec.getLsbD_append, BitVec.getLsbD_extractLsb']
  by_cases h4 : i < 4
  · simp [h4, show i < 8 by omega]
  · by_cases h8 : i < 8
    · simp only [if_neg h4, if_pos h8, decide_eq_true (by omega : i - 4 < 4), Bool.true_and]
      congr 1; omega
    · by_cases h12 : i < 12
      · simp only [if_neg h4, if_neg h8, if_pos h12, if_pos (by omega : i - 8 < 4)]
      · simp only [if_neg h4, if_neg h8, if_neg h12, if_neg (by omega : ¬ i - 8 < 4), Nat.sub_sub]

theorem packNnn_eq (op : Nibble) (nnn : Addr12) :
    packNnn op nnn = packXyn op (nnn.extractLsb' 8 4) (nnn.extractLsb' 4 4) (nnn.extractLsb' 0 4) := by
  apply BitVec.eq_of_getLsbD_eq; intro i hi
  simp only [getLsbD_packXyn, packNnn, BitVec.getLsbD_append, BitVec.getLsbD_extractLsb']
  by_cases h4 : i < 4
  · simp [h4, show i < 12 by omega]
  · by_cases h8 : i < 8
    · simp only [if_neg h4, if_pos h8, if_pos (by omega : i < 12), decide_eq_true (by omega : i - 4 < 4), Bool.true_and]
      congr 1; omega
    · by_cases h12 : i < 12
      · simp only [if_neg h4, if_neg h8, if_pos h12, decide_eq_true (by omega : i - 8 < 4), Bool.true_and]
        congr 1; omega
      · simp only [if_neg h4, if_neg h8, if_neg h12]

theorem fieldKk_packXkk (op x : Nibble) (kk : Byte) : fieldKk (packXkk op x kk) = kk := by
  apply BitVec.eq_of_getLsbD_eq; intro i hi
  simp only [fieldKk, packXkk, BitVec.getLsbD_extractLsb', BitVec.getLsbD_append, Nat.zero_add, if_pos hi, decide_eq_true hi,
    Bool.true_and]

theorem fieldX_packXkk (op x : Nibble) (kk : Byte) : fieldX (packXkk op x kk) = x := by
  rw [packXkk_eq, fieldX_packXyn]

theorem fieldNnn_packNnn (op : Nibble) (nnn : Addr12) : fieldNnn (packNnn op nnn) = nnn := by
  apply BitVec.eq_of_getLsbD_eq; intro i hi
  simp only [fieldNnn, packNnn, BitVec.getLsbD_extractLsb', BitVec.getLsbD_append, Nat.zero_add, if_pos hi, decide_eq_true hi,
    Bool.true_and]

/-- The byte order of fetch and of encoding agree (R53). -/
theorem wordOfBytes_high_low (w : Word) : wordOfBytes (highByte w) (lowByte w) = w := by
  apply BitVec.eq_of_getLsbD_eq; intro i hi
  simp only [wordOfBytes, highByte, lowByte, BitVec.getLsbD_append, BitVec.getLsbD_extractLsb']
  by_cases h : i < 8
  · simp [h]
  · simp only [if_neg h, decide_eq_true (by omega : i - 8 < 8), Bool.true_and]
    congr 1; omega

/-! The opcode map -/

/-- "No other two rows overlap" than 00E0 and 00EE with 0nnn (R74): rows 3 on are pairwise disjoint. -/
theorem opcodeRows_disjoint :
    (opcodeRows.drop 2).Pairwise (fun r q => (r.pattern ^^^ q.pattern) &&& (r.mask &&& q.mask) ≠ 0) := by
  decide

/-- The map has its 35 rows (R75). -/
theorem opcodeRows_length : opcodeRows.length = 35 := rfl

end Sys2Proof
end

