-- ==== Sys2Proof/Laws/State.lean ====
section
/-! SUPPORT. One lemma per field per update of the state, each true by `rfl` and a simp lemma, so that no later proof
unfolds a record update. The updates that branch (timer phase, step input, collision, skip) follow at the end. -/

namespace Sys2Proof.Machine

variable (s : State)

/-! setV -/

@[simp] theorem State.setV_mem (x : Nibble) (b : Byte) : (s.setV x b).mem = s.mem := rfl
@[simp] theorem State.setV_pc (x : Nibble) (b : Byte) : (s.setV x b).pc = s.pc := rfl
@[simp] theorem State.setV_v (x : Nibble) (b : Byte) : (s.setV x b).v = s.v.set x.toNat b x.isLt := rfl
@[simp] theorem State.setV_index (x : Nibble) (b : Byte) : (s.setV x b).index = s.index := rfl
@[simp] theorem State.setV_stack (x : Nibble) (b : Byte) : (s.setV x b).stack = s.stack := rfl
@[simp] theorem State.setV_sp (x : Nibble) (b : Byte) : (s.setV x b).sp = s.sp := rfl
@[simp] theorem State.setV_dt (x : Nibble) (b : Byte) : (s.setV x b).dt = s.dt := rfl
@[simp] theorem State.setV_st (x : Nibble) (b : Byte) : (s.setV x b).st = s.st := rfl
@[simp] theorem State.setV_keys (x : Nibble) (b : Byte) : (s.setV x b).keys = s.keys := rfl
@[simp] theorem State.setV_display (x : Nibble) (b : Byte) : (s.setV x b).display = s.display := rfl
@[simp] theorem State.setV_highResolution (x : Nibble) (b : Byte) : (s.setV x b).highResolution = s.highResolution := rfl
@[simp] theorem State.setV_needsRedraw (x : Nibble) (b : Byte) : (s.setV x b).needsRedraw = s.needsRedraw := rfl
@[simp] theorem State.setV_halted (x : Nibble) (b : Byte) : (s.setV x b).halted = s.halted := rfl
@[simp] theorem State.setV_faultCause (x : Nibble) (b : Byte) : (s.setV x b).faultCause = s.faultCause := rfl
@[simp] theorem State.setV_faultInfo (x : Nibble) (b : Byte) : (s.setV x b).faultInfo = s.faultInfo := rfl
@[simp] theorem State.setV_config (x : Nibble) (b : Byte) : (s.setV x b).config = s.config := rfl
@[simp] theorem State.setV_inputs (x : Nibble) (b : Byte) : (s.setV x b).inputs = s.inputs := rfl
@[simp] theorem State.setV_draws (x : Nibble) (b : Byte) : (s.setV x b).draws = s.draws := rfl

/-! setPc -/

@[simp] theorem State.setPc_mem (w : Word) : (s.setPc w).mem = s.mem := rfl
@[simp] theorem State.setPc_pc (w : Word) : (s.setPc w).pc = w := rfl
@[simp] theorem State.setPc_v (w : Word) : (s.setPc w).v = s.v := rfl
@[simp] theorem State.setPc_index (w : Word) : (s.setPc w).index = s.index := rfl
@[simp] theorem State.setPc_stack (w : Word) : (s.setPc w).stack = s.stack := rfl
@[simp] theorem State.setPc_sp (w : Word) : (s.setPc w).sp = s.sp := rfl
@[simp] theorem State.setPc_dt (w : Word) : (s.setPc w).dt = s.dt := rfl
@[simp] theorem State.setPc_st (w : Word) : (s.setPc w).st = s.st := rfl
@[simp] theorem State.setPc_keys (w : Word) : (s.setPc w).keys = s.keys := rfl
@[simp] theorem State.setPc_display (w : Word) : (s.setPc w).display = s.display := rfl
@[simp] theorem State.setPc_highResolution (w : Word) : (s.setPc w).highResolution = s.highResolution := rfl
@[simp] theorem State.setPc_needsRedraw (w : Word) : (s.setPc w).needsRedraw = s.needsRedraw := rfl
@[simp] theorem State.setPc_halted (w : Word) : (s.setPc w).halted = s.halted := rfl
@[simp] theorem State.setPc_faultCause (w : Word) : (s.setPc w).faultCause = s.faultCause := rfl
@[simp] theorem State.setPc_faultInfo (w : Word) : (s.setPc w).faultInfo = s.faultInfo := rfl
@[simp] theorem State.setPc_config (w : Word) : (s.setPc w).config = s.config := rfl
@[simp] theorem State.setPc_inputs (w : Word) : (s.setPc w).inputs = s.inputs := rfl
@[simp] theorem State.setPc_draws (w : Word) : (s.setPc w).draws = s.draws := rfl

/-! setIndex -/

@[simp] theorem State.setIndex_mem (w : Word) : (s.setIndex w).mem = s.mem := rfl
@[simp] theorem State.setIndex_pc (w : Word) : (s.setIndex w).pc = s.pc := rfl
@[simp] theorem State.setIndex_v (w : Word) : (s.setIndex w).v = s.v := rfl
@[simp] theorem State.setIndex_index (w : Word) : (s.setIndex w).index = w := rfl
@[simp] theorem State.setIndex_stack (w : Word) : (s.setIndex w).stack = s.stack := rfl
@[simp] theorem State.setIndex_sp (w : Word) : (s.setIndex w).sp = s.sp := rfl
@[simp] theorem State.setIndex_dt (w : Word) : (s.setIndex w).dt = s.dt := rfl
@[simp] theorem State.setIndex_st (w : Word) : (s.setIndex w).st = s.st := rfl
@[simp] theorem State.setIndex_keys (w : Word) : (s.setIndex w).keys = s.keys := rfl
@[simp] theorem State.setIndex_display (w : Word) : (s.setIndex w).display = s.display := rfl
@[simp] theorem State.setIndex_highResolution (w : Word) : (s.setIndex w).highResolution = s.highResolution := rfl
@[simp] theorem State.setIndex_needsRedraw (w : Word) : (s.setIndex w).needsRedraw = s.needsRedraw := rfl
@[simp] theorem State.setIndex_halted (w : Word) : (s.setIndex w).halted = s.halted := rfl
@[simp] theorem State.setIndex_faultCause (w : Word) : (s.setIndex w).faultCause = s.faultCause := rfl
@[simp] theorem State.setIndex_faultInfo (w : Word) : (s.setIndex w).faultInfo = s.faultInfo := rfl
@[simp] theorem State.setIndex_config (w : Word) : (s.setIndex w).config = s.config := rfl
@[simp] theorem State.setIndex_inputs (w : Word) : (s.setIndex w).inputs = s.inputs := rfl
@[simp] theorem State.setIndex_draws (w : Word) : (s.setIndex w).draws = s.draws := rfl

/-! setDt -/

@[simp] theorem State.setDt_mem (b : Byte) : (s.setDt b).mem = s.mem := rfl
@[simp] theorem State.setDt_pc (b : Byte) : (s.setDt b).pc = s.pc := rfl
@[simp] theorem State.setDt_v (b : Byte) : (s.setDt b).v = s.v := rfl
@[simp] theorem State.setDt_index (b : Byte) : (s.setDt b).index = s.index := rfl
@[simp] theorem State.setDt_stack (b : Byte) : (s.setDt b).stack = s.stack := rfl
@[simp] theorem State.setDt_sp (b : Byte) : (s.setDt b).sp = s.sp := rfl
@[simp] theorem State.setDt_dt (b : Byte) : (s.setDt b).dt = b := rfl
@[simp] theorem State.setDt_st (b : Byte) : (s.setDt b).st = s.st := rfl
@[simp] theorem State.setDt_keys (b : Byte) : (s.setDt b).keys = s.keys := rfl
@[simp] theorem State.setDt_display (b : Byte) : (s.setDt b).display = s.display := rfl
@[simp] theorem State.setDt_highResolution (b : Byte) : (s.setDt b).highResolution = s.highResolution := rfl
@[simp] theorem State.setDt_needsRedraw (b : Byte) : (s.setDt b).needsRedraw = s.needsRedraw := rfl
@[simp] theorem State.setDt_halted (b : Byte) : (s.setDt b).halted = s.halted := rfl
@[simp] theorem State.setDt_faultCause (b : Byte) : (s.setDt b).faultCause = s.faultCause := rfl
@[simp] theorem State.setDt_faultInfo (b : Byte) : (s.setDt b).faultInfo = s.faultInfo := rfl
@[simp] theorem State.setDt_config (b : Byte) : (s.setDt b).config = s.config := rfl
@[simp] theorem State.setDt_inputs (b : Byte) : (s.setDt b).inputs = s.inputs := rfl
@[simp] theorem State.setDt_draws (b : Byte) : (s.setDt b).draws = s.draws := rfl

/-! setSt -/

@[simp] theorem State.setSt_mem (b : Byte) : (s.setSt b).mem = s.mem := rfl
@[simp] theorem State.setSt_pc (b : Byte) : (s.setSt b).pc = s.pc := rfl
@[simp] theorem State.setSt_v (b : Byte) : (s.setSt b).v = s.v := rfl
@[simp] theorem State.setSt_index (b : Byte) : (s.setSt b).index = s.index := rfl
@[simp] theorem State.setSt_stack (b : Byte) : (s.setSt b).stack = s.stack := rfl
@[simp] theorem State.setSt_sp (b : Byte) : (s.setSt b).sp = s.sp := rfl
@[simp] theorem State.setSt_dt (b : Byte) : (s.setSt b).dt = s.dt := rfl
@[simp] theorem State.setSt_st (b : Byte) : (s.setSt b).st = b := rfl
@[simp] theorem State.setSt_keys (b : Byte) : (s.setSt b).keys = s.keys := rfl
@[simp] theorem State.setSt_display (b : Byte) : (s.setSt b).display = s.display := rfl
@[simp] theorem State.setSt_highResolution (b : Byte) : (s.setSt b).highResolution = s.highResolution := rfl
@[simp] theorem State.setSt_needsRedraw (b : Byte) : (s.setSt b).needsRedraw = s.needsRedraw := rfl
@[simp] theorem State.setSt_halted (b : Byte) : (s.setSt b).halted = s.halted := rfl
@[simp] theorem State.setSt_faultCause (b : Byte) : (s.setSt b).faultCause = s.faultCause := rfl
@[simp] theorem State.setSt_faultInfo (b : Byte) : (s.setSt b).faultInfo = s.faultInfo := rfl
@[simp] theorem State.setSt_config (b : Byte) : (s.setSt b).config = s.config := rfl
@[simp] theorem State.setSt_inputs (b : Byte) : (s.setSt b).inputs = s.inputs := rfl
@[simp] theorem State.setSt_draws (b : Byte) : (s.setSt b).draws = s.draws := rfl

/-! writeByte -/

@[simp] theorem State.writeByte_mem (a : Nat) (b : Byte) : (s.writeByte a b).mem = Memory.write s.config.font s.mem a b := rfl
@[simp] theorem State.writeByte_pc (a : Nat) (b : Byte) : (s.writeByte a b).pc = s.pc := rfl
@[simp] theorem State.writeByte_v (a : Nat) (b : Byte) : (s.writeByte a b).v = s.v := rfl
@[simp] theorem State.writeByte_index (a : Nat) (b : Byte) : (s.writeByte a b).index = s.index := rfl
@[simp] theorem State.writeByte_stack (a : Nat) (b : Byte) : (s.writeByte a b).stack = s.stack := rfl
@[simp] theorem State.writeByte_sp (a : Nat) (b : Byte) : (s.writeByte a b).sp = s.sp := rfl
@[simp] theorem State.writeByte_dt (a : Nat) (b : Byte) : (s.writeByte a b).dt = s.dt := rfl
@[simp] theorem State.writeByte_st (a : Nat) (b : Byte) : (s.writeByte a b).st = s.st := rfl
@[simp] theorem State.writeByte_keys (a : Nat) (b : Byte) : (s.writeByte a b).keys = s.keys := rfl
@[simp] theorem State.writeByte_display (a : Nat) (b : Byte) : (s.writeByte a b).display = s.display := rfl
@[simp] theorem State.writeByte_highResolution (a : Nat) (b : Byte) : (s.writeByte a b).highResolution = s.highResolution := rfl
@[simp] theorem State.writeByte_needsRedraw (a : Nat) (b : Byte) : (s.writeByte a b).needsRedraw = s.needsRedraw := rfl
@[simp] theorem State.writeByte_halted (a : Nat) (b : Byte) : (s.writeByte a b).halted = s.halted := rfl
@[simp] theorem State.writeByte_faultCause (a : Nat) (b : Byte) : (s.writeByte a b).faultCause = s.faultCause := rfl
@[simp] theorem State.writeByte_faultInfo (a : Nat) (b : Byte) : (s.writeByte a b).faultInfo = s.faultInfo := rfl
@[simp] theorem State.writeByte_config (a : Nat) (b : Byte) : (s.writeByte a b).config = s.config := rfl
@[simp] theorem State.writeByte_inputs (a : Nat) (b : Byte) : (s.writeByte a b).inputs = s.inputs := rfl
@[simp] theorem State.writeByte_draws (a : Nat) (b : Byte) : (s.writeByte a b).draws = s.draws := rfl

/-! push -/

@[simp] theorem State.push_mem (w : Word) : (s.push w).mem = s.mem := rfl
@[simp] theorem State.push_pc (w : Word) : (s.push w).pc = s.pc := rfl
@[simp] theorem State.push_v (w : Word) : (s.push w).v = s.v := rfl
@[simp] theorem State.push_index (w : Word) : (s.push w).index = s.index := rfl
@[simp] theorem State.push_stack (w : Word) : (s.push w).stack = s.stack.set (s.sp + 1).toNat w (s.sp + 1).isLt := rfl
@[simp] theorem State.push_sp (w : Word) : (s.push w).sp = s.sp + 1 := rfl
@[simp] theorem State.push_dt (w : Word) : (s.push w).dt = s.dt := rfl
@[simp] theorem State.push_st (w : Word) : (s.push w).st = s.st := rfl
@[simp] theorem State.push_keys (w : Word) : (s.push w).keys = s.keys := rfl
@[simp] theorem State.push_display (w : Word) : (s.push w).display = s.display := rfl
@[simp] theorem State.push_highResolution (w : Word) : (s.push w).highResolution = s.highResolution := rfl
@[simp] theorem State.push_needsRedraw (w : Word) : (s.push w).needsRedraw = s.needsRedraw := rfl
@[simp] theorem State.push_halted (w : Word) : (s.push w).halted = s.halted := rfl
@[simp] theorem State.push_faultCause (w : Word) : (s.push w).faultCause = s.faultCause := rfl
@[simp] theorem State.push_faultInfo (w : Word) : (s.push w).faultInfo = s.faultInfo := rfl
@[simp] theorem State.push_config (w : Word) : (s.push w).config = s.config := rfl
@[simp] theorem State.push_inputs (w : Word) : (s.push w).inputs = s.inputs := rfl
@[simp] theorem State.push_draws (w : Word) : (s.push w).draws = s.draws := rfl

/-! pop -/

@[simp] theorem State.pop_mem : s.pop.mem = s.mem := rfl
@[simp] theorem State.pop_pc : s.pop.pc = s.pc := rfl
@[simp] theorem State.pop_v : s.pop.v = s.v := rfl
@[simp] theorem State.pop_index : s.pop.index = s.index := rfl
@[simp] theorem State.pop_stack : s.pop.stack = s.stack := rfl
@[simp] theorem State.pop_sp : s.pop.sp = s.sp - 1 := rfl
@[simp] theorem State.pop_dt : s.pop.dt = s.dt := rfl
@[simp] theorem State.pop_st : s.pop.st = s.st := rfl
@[simp] theorem State.pop_keys : s.pop.keys = s.keys := rfl
@[simp] theorem State.pop_display : s.pop.display = s.display := rfl
@[simp] theorem State.pop_highResolution : s.pop.highResolution = s.highResolution := rfl
@[simp] theorem State.pop_needsRedraw : s.pop.needsRedraw = s.needsRedraw := rfl
@[simp] theorem State.pop_halted : s.pop.halted = s.halted := rfl
@[simp] theorem State.pop_faultCause : s.pop.faultCause = s.faultCause := rfl
@[simp] theorem State.pop_faultInfo : s.pop.faultInfo = s.faultInfo := rfl
@[simp] theorem State.pop_config : s.pop.config = s.config := rfl
@[simp] theorem State.pop_inputs : s.pop.inputs = s.inputs := rfl
@[simp] theorem State.pop_draws : s.pop.draws = s.draws := rfl

/-! advance -/

@[simp] theorem State.advance_mem : s.advance.mem = s.mem := rfl
@[simp] theorem State.advance_pc : s.advance.pc = s.pc + 2 := rfl
@[simp] theorem State.advance_v : s.advance.v = s.v := rfl
@[simp] theorem State.advance_index : s.advance.index = s.index := rfl
@[simp] theorem State.advance_stack : s.advance.stack = s.stack := rfl
@[simp] theorem State.advance_sp : s.advance.sp = s.sp := rfl
@[simp] theorem State.advance_dt : s.advance.dt = s.dt := rfl
@[simp] theorem State.advance_st : s.advance.st = s.st := rfl
@[simp] theorem State.advance_keys : s.advance.keys = s.keys := rfl
@[simp] theorem State.advance_display : s.advance.display = s.display := rfl
@[simp] theorem State.advance_highResolution : s.advance.highResolution = s.highResolution := rfl
@[simp] theorem State.advance_needsRedraw : s.advance.needsRedraw = s.needsRedraw := rfl
@[simp] theorem State.advance_halted : s.advance.halted = s.halted := rfl
@[simp] theorem State.advance_faultCause : s.advance.faultCause = s.faultCause := rfl
@[simp] theorem State.advance_faultInfo : s.advance.faultInfo = s.faultInfo := rfl
@[simp] theorem State.advance_config : s.advance.config = s.config := rfl
@[simp] theorem State.advance_inputs : s.advance.inputs = s.inputs := rfl
@[simp] theorem State.advance_draws : s.advance.draws = s.draws := rfl

/-! timerGovernor -/

@[simp] theorem State.timerGovernor_mem : s.timerGovernor.mem = s.mem := rfl
@[simp] theorem State.timerGovernor_pc : s.timerGovernor.pc = s.pc := rfl
@[simp] theorem State.timerGovernor_v : s.timerGovernor.v = s.v := rfl
@[simp] theorem State.timerGovernor_index : s.timerGovernor.index = s.index := rfl
@[simp] theorem State.timerGovernor_stack : s.timerGovernor.stack = s.stack := rfl
@[simp] theorem State.timerGovernor_sp : s.timerGovernor.sp = s.sp := rfl
@[simp] theorem State.timerGovernor_dt : s.timerGovernor.dt = countDown s.dt := rfl
@[simp] theorem State.timerGovernor_st : s.timerGovernor.st = countDown s.st := rfl
@[simp] theorem State.timerGovernor_keys : s.timerGovernor.keys = s.keys := rfl
@[simp] theorem State.timerGovernor_display : s.timerGovernor.display = s.display := rfl
@[simp] theorem State.timerGovernor_highResolution : s.timerGovernor.highResolution = s.highResolution := rfl
@[simp] theorem State.timerGovernor_needsRedraw : s.timerGovernor.needsRedraw = s.needsRedraw := rfl
@[simp] theorem State.timerGovernor_halted : s.timerGovernor.halted = s.halted := rfl
@[simp] theorem State.timerGovernor_faultCause : s.timerGovernor.faultCause = s.faultCause := rfl
@[simp] theorem State.timerGovernor_faultInfo : s.timerGovernor.faultInfo = s.faultInfo := rfl
@[simp] theorem State.timerGovernor_config : s.timerGovernor.config = s.config := rfl
@[simp] theorem State.timerGovernor_inputs : s.timerGovernor.inputs = s.inputs := rfl
@[simp] theorem State.timerGovernor_draws : s.timerGovernor.draws = s.draws := rfl

/-! raise -/

@[simp] theorem State.raise_mem (c : Cause) (info : Word) : (s.raise c info).mem = s.mem := rfl
@[simp] theorem State.raise_pc (c : Cause) (info : Word) : (s.raise c info).pc = s.pc := rfl
@[simp] theorem State.raise_v (c : Cause) (info : Word) : (s.raise c info).v = s.v := rfl
@[simp] theorem State.raise_index (c : Cause) (info : Word) : (s.raise c info).index = s.index := rfl
@[simp] theorem State.raise_stack (c : Cause) (info : Word) : (s.raise c info).stack = s.stack := rfl
@[simp] theorem State.raise_sp (c : Cause) (info : Word) : (s.raise c info).sp = s.sp := rfl
@[simp] theorem State.raise_dt (c : Cause) (info : Word) : (s.raise c info).dt = s.dt := rfl
@[simp] theorem State.raise_st (c : Cause) (info : Word) : (s.raise c info).st = s.st := rfl
@[simp] theorem State.raise_keys (c : Cause) (info : Word) : (s.raise c info).keys = s.keys := rfl
@[simp] theorem State.raise_display (c : Cause) (info : Word) : (s.raise c info).display = s.display := rfl
@[simp] theorem State.raise_highResolution (c : Cause) (info : Word) : (s.raise c info).highResolution = s.highResolution := rfl
@[simp] theorem State.raise_needsRedraw (c : Cause) (info : Word) : (s.raise c info).needsRedraw = s.needsRedraw := rfl
@[simp] theorem State.raise_halted (c : Cause) (info : Word) : (s.raise c info).halted = true := rfl
@[simp] theorem State.raise_faultCause (c : Cause) (info : Word) : (s.raise c info).faultCause = c.code := rfl
@[simp] theorem State.raise_faultInfo (c : Cause) (info : Word) : (s.raise c info).faultInfo = info := rfl
@[simp] theorem State.raise_config (c : Cause) (info : Word) : (s.raise c info).config = s.config := rfl
@[simp] theorem State.raise_inputs (c : Cause) (info : Word) : (s.raise c info).inputs = s.inputs := rfl
@[simp] theorem State.raise_draws (c : Cause) (info : Word) : (s.raise c info).draws = s.draws := rfl

/-! setKey -/

@[simp] theorem State.setKey_mem (k : Nibble) (p : Bool) : (s.setKey k p).mem = s.mem := rfl
@[simp] theorem State.setKey_pc (k : Nibble) (p : Bool) : (s.setKey k p).pc = s.pc := rfl
@[simp] theorem State.setKey_v (k : Nibble) (p : Bool) : (s.setKey k p).v = s.v := rfl
@[simp] theorem State.setKey_index (k : Nibble) (p : Bool) : (s.setKey k p).index = s.index := rfl
@[simp] theorem State.setKey_stack (k : Nibble) (p : Bool) : (s.setKey k p).stack = s.stack := rfl
@[simp] theorem State.setKey_sp (k : Nibble) (p : Bool) : (s.setKey k p).sp = s.sp := rfl
@[simp] theorem State.setKey_dt (k : Nibble) (p : Bool) : (s.setKey k p).dt = s.dt := rfl
@[simp] theorem State.setKey_st (k : Nibble) (p : Bool) : (s.setKey k p).st = s.st := rfl
@[simp] theorem State.setKey_keys (k : Nibble) (p : Bool) : (s.setKey k p).keys = s.keys.set k.toNat p k.isLt := rfl
@[simp] theorem State.setKey_display (k : Nibble) (p : Bool) : (s.setKey k p).display = s.display := rfl
@[simp] theorem State.setKey_highResolution (k : Nibble) (p : Bool) : (s.setKey k p).highResolution = s.highResolution := rfl
@[simp] theorem State.setKey_needsRedraw (k : Nibble) (p : Bool) : (s.setKey k p).needsRedraw = s.needsRedraw := rfl
@[simp] theorem State.setKey_halted (k : Nibble) (p : Bool) : (s.setKey k p).halted = s.halted := rfl
@[simp] theorem State.setKey_faultCause (k : Nibble) (p : Bool) : (s.setKey k p).faultCause = s.faultCause := rfl
@[simp] theorem State.setKey_faultInfo (k : Nibble) (p : Bool) : (s.setKey k p).faultInfo = s.faultInfo := rfl
@[simp] theorem State.setKey_config (k : Nibble) (p : Bool) : (s.setKey k p).config = s.config := rfl
@[simp] theorem State.setKey_inputs (k : Nibble) (p : Bool) : (s.setKey k p).inputs = s.inputs := rfl
@[simp] theorem State.setKey_draws (k : Nibble) (p : Bool) : (s.setKey k p).draws = s.draws := rfl

/-! clearRedraw -/

@[simp] theorem State.clearRedraw_mem : s.clearRedraw.mem = s.mem := rfl
@[simp] theorem State.clearRedraw_pc : s.clearRedraw.pc = s.pc := rfl
@[simp] theorem State.clearRedraw_v : s.clearRedraw.v = s.v := rfl
@[simp] theorem State.clearRedraw_index : s.clearRedraw.index = s.index := rfl
@[simp] theorem State.clearRedraw_stack : s.clearRedraw.stack = s.stack := rfl
@[simp] theorem State.clearRedraw_sp : s.clearRedraw.sp = s.sp := rfl
@[simp] theorem State.clearRedraw_dt : s.clearRedraw.dt = s.dt := rfl
@[simp] theorem State.clearRedraw_st : s.clearRedraw.st = s.st := rfl
@[simp] theorem State.clearRedraw_keys : s.clearRedraw.keys = s.keys := rfl
@[simp] theorem State.clearRedraw_display : s.clearRedraw.display = s.display := rfl
@[simp] theorem State.clearRedraw_highResolution : s.clearRedraw.highResolution = s.highResolution := rfl
@[simp] theorem State.clearRedraw_needsRedraw : s.clearRedraw.needsRedraw = false := rfl
@[simp] theorem State.clearRedraw_halted : s.clearRedraw.halted = s.halted := rfl
@[simp] theorem State.clearRedraw_faultCause : s.clearRedraw.faultCause = s.faultCause := rfl
@[simp] theorem State.clearRedraw_faultInfo : s.clearRedraw.faultInfo = s.faultInfo := rfl
@[simp] theorem State.clearRedraw_config : s.clearRedraw.config = s.config := rfl
@[simp] theorem State.clearRedraw_inputs : s.clearRedraw.inputs = s.inputs := rfl
@[simp] theorem State.clearRedraw_draws : s.clearRedraw.draws = s.draws := rfl

/-! hostReset -/

@[simp] theorem State.hostReset_mem : s.hostReset.mem = [] := rfl
@[simp] theorem State.hostReset_pc : s.hostReset.pc = 0 := rfl
@[simp] theorem State.hostReset_v : s.hostReset.v = Vector.replicate 16 0 := rfl
@[simp] theorem State.hostReset_index : s.hostReset.index = 0 := rfl
@[simp] theorem State.hostReset_stack : s.hostReset.stack = Vector.replicate 16 0 := rfl
@[simp] theorem State.hostReset_sp : s.hostReset.sp = 0 := rfl
@[simp] theorem State.hostReset_dt : s.hostReset.dt = 0 := rfl
@[simp] theorem State.hostReset_st : s.hostReset.st = 0 := rfl
@[simp] theorem State.hostReset_keys : s.hostReset.keys = Vector.replicate 16 false := rfl
@[simp] theorem State.hostReset_display : s.hostReset.display = Vector.replicate 64 0 := rfl
@[simp] theorem State.hostReset_highResolution : s.hostReset.highResolution = s.config.highRes := rfl
@[simp] theorem State.hostReset_needsRedraw : s.hostReset.needsRedraw = false := rfl
@[simp] theorem State.hostReset_halted : s.hostReset.halted = false := rfl
@[simp] theorem State.hostReset_faultCause : s.hostReset.faultCause = 0 := rfl
@[simp] theorem State.hostReset_faultInfo : s.hostReset.faultInfo = 0 := rfl
@[simp] theorem State.hostReset_config : s.hostReset.config = s.config := rfl
@[simp] theorem State.hostReset_inputs : s.hostReset.inputs = [] := rfl
@[simp] theorem State.hostReset_draws : s.hostReset.draws = s.draws := rfl

/-! timerPhase -/

@[simp] theorem State.timerPhase_mem : s.timerPhase.mem = s.mem := rfl
@[simp] theorem State.timerPhase_pc : s.timerPhase.pc = s.pc := rfl
@[simp] theorem State.timerPhase_v : s.timerPhase.v = s.v := rfl
@[simp] theorem State.timerPhase_index : s.timerPhase.index = s.index := rfl
@[simp] theorem State.timerPhase_stack : s.timerPhase.stack = s.stack := rfl
@[simp] theorem State.timerPhase_sp : s.timerPhase.sp = s.sp := rfl
@[simp] theorem State.timerPhase_keys : s.timerPhase.keys = s.keys := rfl
@[simp] theorem State.timerPhase_display : s.timerPhase.display = s.display := rfl
@[simp] theorem State.timerPhase_highResolution : s.timerPhase.highResolution = s.highResolution := rfl
@[simp] theorem State.timerPhase_needsRedraw : s.timerPhase.needsRedraw = s.needsRedraw := rfl
@[simp] theorem State.timerPhase_halted : s.timerPhase.halted = s.halted := rfl
@[simp] theorem State.timerPhase_faultCause : s.timerPhase.faultCause = s.faultCause := rfl
@[simp] theorem State.timerPhase_faultInfo : s.timerPhase.faultInfo = s.faultInfo := rfl
@[simp] theorem State.timerPhase_config : s.timerPhase.config = s.config := rfl
@[simp] theorem State.timerPhase_inputs : s.timerPhase.inputs = s.inputs := rfl
@[simp] theorem State.timerPhase_draws : s.timerPhase.draws = s.draws := rfl

/-! useInput -/

@[simp] theorem State.useInput_mem : s.useInput.mem = s.mem := rfl
@[simp] theorem State.useInput_pc : s.useInput.pc = s.pc := rfl
@[simp] theorem State.useInput_v : s.useInput.v = s.v := rfl
@[simp] theorem State.useInput_index : s.useInput.index = s.index := rfl
@[simp] theorem State.useInput_stack : s.useInput.stack = s.stack := rfl
@[simp] theorem State.useInput_sp : s.useInput.sp = s.sp := rfl
@[simp] theorem State.useInput_dt : s.useInput.dt = s.dt := rfl
@[simp] theorem State.useInput_st : s.useInput.st = s.st := rfl
@[simp] theorem State.useInput_keys : s.useInput.keys = s.keys := rfl
@[simp] theorem State.useInput_display : s.useInput.display = s.display := rfl
@[simp] theorem State.useInput_highResolution : s.useInput.highResolution = s.highResolution := rfl
@[simp] theorem State.useInput_needsRedraw : s.useInput.needsRedraw = s.needsRedraw := rfl
@[simp] theorem State.useInput_halted : s.useInput.halted = s.halted := rfl
@[simp] theorem State.useInput_faultCause : s.useInput.faultCause = s.faultCause := rfl
@[simp] theorem State.useInput_faultInfo : s.useInput.faultInfo = s.faultInfo := rfl
@[simp] theorem State.useInput_config : s.useInput.config = s.config := rfl

/-! setCollision -/

@[simp] theorem State.setCollision_mem (hit : Bool) : (s.setCollision hit).mem = s.mem := by unfold State.setCollision; split <;> rfl
@[simp] theorem State.setCollision_pc (hit : Bool) : (s.setCollision hit).pc = s.pc := by unfold State.setCollision; split <;> rfl
@[simp] theorem State.setCollision_index (hit : Bool) : (s.setCollision hit).index = s.index := by unfold State.setCollision; split <;> rfl
@[simp] theorem State.setCollision_stack (hit : Bool) : (s.setCollision hit).stack = s.stack := by unfold State.setCollision; split <;> rfl
@[simp] theorem State.setCollision_sp (hit : Bool) : (s.setCollision hit).sp = s.sp := by unfold State.setCollision; split <;> rfl
@[simp] theorem State.setCollision_dt (hit : Bool) : (s.setCollision hit).dt = s.dt := by unfold State.setCollision; split <;> rfl
@[simp] theorem State.setCollision_st (hit : Bool) : (s.setCollision hit).st = s.st := by unfold State.setCollision; split <;> rfl
@[simp] theorem State.setCollision_keys (hit : Bool) : (s.setCollision hit).keys = s.keys := by unfold State.setCollision; split <;> rfl
@[simp] theorem State.setCollision_display (hit : Bool) : (s.setCollision hit).display = s.display := by unfold State.setCollision; split <;> rfl
@[simp] theorem State.setCollision_highResolution (hit : Bool) : (s.setCollision hit).highResolution = s.highResolution := by unfold State.setCollision; split <;> rfl
@[simp] theorem State.setCollision_needsRedraw (hit : Bool) : (s.setCollision hit).needsRedraw = s.needsRedraw := by unfold State.setCollision; split <;> rfl
@[simp] theorem State.setCollision_halted (hit : Bool) : (s.setCollision hit).halted = s.halted := by unfold State.setCollision; split <;> rfl
@[simp] theorem State.setCollision_faultCause (hit : Bool) : (s.setCollision hit).faultCause = s.faultCause := by unfold State.setCollision; split <;> rfl
@[simp] theorem State.setCollision_faultInfo (hit : Bool) : (s.setCollision hit).faultInfo = s.faultInfo := by unfold State.setCollision; split <;> rfl
@[simp] theorem State.setCollision_config (hit : Bool) : (s.setCollision hit).config = s.config := by unfold State.setCollision; split <;> rfl
@[simp] theorem State.setCollision_inputs (hit : Bool) : (s.setCollision hit).inputs = s.inputs := by unfold State.setCollision; split <;> rfl
@[simp] theorem State.setCollision_draws (hit : Bool) : (s.setCollision hit).draws = s.draws := by unfold State.setCollision; split <;> rfl

/-! skipIf -/

@[simp] theorem skipIf_mem (taken : Bool) : (skipIf taken s).mem = s.mem := by unfold skipIf; split <;> rfl
@[simp] theorem skipIf_v (taken : Bool) : (skipIf taken s).v = s.v := by unfold skipIf; split <;> rfl
@[simp] theorem skipIf_index (taken : Bool) : (skipIf taken s).index = s.index := by unfold skipIf; split <;> rfl
@[simp] theorem skipIf_stack (taken : Bool) : (skipIf taken s).stack = s.stack := by unfold skipIf; split <;> rfl
@[simp] theorem skipIf_sp (taken : Bool) : (skipIf taken s).sp = s.sp := by unfold skipIf; split <;> rfl
@[simp] theorem skipIf_dt (taken : Bool) : (skipIf taken s).dt = s.dt := by unfold skipIf; split <;> rfl
@[simp] theorem skipIf_st (taken : Bool) : (skipIf taken s).st = s.st := by unfold skipIf; split <;> rfl
@[simp] theorem skipIf_keys (taken : Bool) : (skipIf taken s).keys = s.keys := by unfold skipIf; split <;> rfl
@[simp] theorem skipIf_display (taken : Bool) : (skipIf taken s).display = s.display := by unfold skipIf; split <;> rfl
@[simp] theorem skipIf_highResolution (taken : Bool) : (skipIf taken s).highResolution = s.highResolution := by unfold skipIf; split <;> rfl
@[simp] theorem skipIf_needsRedraw (taken : Bool) : (skipIf taken s).needsRedraw = s.needsRedraw := by unfold skipIf; split <;> rfl
@[simp] theorem skipIf_halted (taken : Bool) : (skipIf taken s).halted = s.halted := by unfold skipIf; split <;> rfl
@[simp] theorem skipIf_faultCause (taken : Bool) : (skipIf taken s).faultCause = s.faultCause := by unfold skipIf; split <;> rfl
@[simp] theorem skipIf_faultInfo (taken : Bool) : (skipIf taken s).faultInfo = s.faultInfo := by unfold skipIf; split <;> rfl
@[simp] theorem skipIf_config (taken : Bool) : (skipIf taken s).config = s.config := by unfold skipIf; split <;> rfl
@[simp] theorem skipIf_inputs (taken : Bool) : (skipIf taken s).inputs = s.inputs := by unfold skipIf; split <;> rfl
@[simp] theorem skipIf_draws (taken : Bool) : (skipIf taken s).draws = s.draws := by unfold skipIf; split <;> rfl

/-! What the branching updates do to the fields they write -/

@[simp] theorem skipIf_pc (taken : Bool) : (skipIf taken s).pc = if taken then s.pc + 2 else s.pc := by
  cases taken <;> rfl

theorem State.timerPhase_dt : s.timerPhase.dt = if s.stepInput.tick then countDown s.dt else s.dt := rfl

theorem State.timerPhase_st : s.timerPhase.st = if s.stepInput.tick then countDown s.st else s.st := rfl

theorem State.useInput_of_supplied (inp : StepInput) (rest : List StepInput) (h : s.inputs = inp :: rest) :
    s.useInput = { s with inputs := rest } := by
  unfold State.useInput; simp [h]

theorem State.useInput_of_none (h : s.inputs = []) : s.useInput = { s with draws := s.draws + 1 } := by
  unfold State.useInput; simp [h]

/-- The step input hangs on the model's own two fields alone. -/
theorem stepInput_congr {s t : State} (hi : t.inputs = s.inputs) (hd : t.draws = s.draws) :
    t.stepInput = s.stepInput := by
  unfold State.stepInput; rw [hi, hd]

/-! No update of the core's own state touches the step input. -/

@[simp] theorem State.setV_stepInput (x : Nibble) (b : Byte) : (s.setV x b).stepInput = s.stepInput := rfl
@[simp] theorem State.setPc_stepInput (w : Word) : (s.setPc w).stepInput = s.stepInput := rfl
@[simp] theorem State.setIndex_stepInput (w : Word) : (s.setIndex w).stepInput = s.stepInput := rfl
@[simp] theorem State.setDt_stepInput (b : Byte) : (s.setDt b).stepInput = s.stepInput := rfl
@[simp] theorem State.setSt_stepInput (b : Byte) : (s.setSt b).stepInput = s.stepInput := rfl
@[simp] theorem State.writeByte_stepInput (a : Nat) (b : Byte) : (s.writeByte a b).stepInput = s.stepInput := rfl
@[simp] theorem State.push_stepInput (w : Word) : (s.push w).stepInput = s.stepInput := rfl
@[simp] theorem State.pop_stepInput : s.pop.stepInput = s.stepInput := rfl
@[simp] theorem State.advance_stepInput : s.advance.stepInput = s.stepInput := rfl
@[simp] theorem State.timerGovernor_stepInput : s.timerGovernor.stepInput = s.stepInput := rfl
@[simp] theorem State.raise_stepInput (c : Cause) (info : Word) : (s.raise c info).stepInput = s.stepInput := rfl

@[simp] theorem skipIf_stepInput (taken : Bool) : (skipIf taken s).stepInput = s.stepInput :=
  stepInput_congr (by simp) (by simp)

theorem State.stepInput_of_supplied (inp : StepInput) (rest : List StepInput) (h : s.inputs = inp :: rest) :
    s.stepInput = inp := by
  unfold State.stepInput; rw [h]

/-! The reset state -/

@[simp] theorem State.resetOf_mem (cfg : Config) : (State.resetOf cfg).mem = [] := rfl
@[simp] theorem State.resetOf_pc (cfg : Config) : (State.resetOf cfg).pc = 0 := rfl
@[simp] theorem State.resetOf_v (cfg : Config) : (State.resetOf cfg).v = Vector.replicate 16 0 := rfl
@[simp] theorem State.resetOf_index (cfg : Config) : (State.resetOf cfg).index = 0 := rfl
@[simp] theorem State.resetOf_stack (cfg : Config) : (State.resetOf cfg).stack = Vector.replicate 16 0 := rfl
@[simp] theorem State.resetOf_sp (cfg : Config) : (State.resetOf cfg).sp = 0 := rfl
@[simp] theorem State.resetOf_dt (cfg : Config) : (State.resetOf cfg).dt = 0 := rfl
@[simp] theorem State.resetOf_st (cfg : Config) : (State.resetOf cfg).st = 0 := rfl
@[simp] theorem State.resetOf_keys (cfg : Config) : (State.resetOf cfg).keys = Vector.replicate 16 false := rfl
@[simp] theorem State.resetOf_display (cfg : Config) : (State.resetOf cfg).display = Vector.replicate 64 0 := rfl
@[simp] theorem State.resetOf_highResolution (cfg : Config) : (State.resetOf cfg).highResolution = cfg.highRes := rfl
@[simp] theorem State.resetOf_needsRedraw (cfg : Config) : (State.resetOf cfg).needsRedraw = false := rfl
@[simp] theorem State.resetOf_halted (cfg : Config) : (State.resetOf cfg).halted = false := rfl
@[simp] theorem State.resetOf_faultCause (cfg : Config) : (State.resetOf cfg).faultCause = 0 := rfl
@[simp] theorem State.resetOf_faultInfo (cfg : Config) : (State.resetOf cfg).faultInfo = 0 := rfl
@[simp] theorem State.resetOf_config (cfg : Config) : (State.resetOf cfg).config = cfg := rfl
@[simp] theorem State.resetOf_inputs (cfg : Config) : (State.resetOf cfg).inputs = [] := rfl
@[simp] theorem State.resetOf_draws (cfg : Config) : (State.resetOf cfg).draws = 0 := rfl

end Sys2Proof.Machine
end

