-- ==== Sys2Proof/Laws/Memory.lean ====
section
/-! SUPPORT. Memory: a read after a write, and the canonical form is kept by every memory operation (spec/20_memory.md R57). -/

namespace Sys2Proof.Machine

variable (font : Font)

theorem Memory.read_put_same (m : Memory) (a : Nat) (v : Byte) : Memory.read font (Memory.put a v m) a = v := by
  induction m with
  | nil => simp [Memory.put, Memory.read]
  | cons c m ih =>
    obtain ⟨b, w⟩ := c
    simp only [Memory.put]
    split
    · simp [Memory.read]
    · split
      · simp [Memory.read]
      · simp [Memory.read, *]

theorem Memory.read_put_ne (m : Memory) {a b : Nat} (v : Byte) (h : b ≠ a) :
    Memory.read font (Memory.put a v m) b = Memory.read font m b := by
  induction m with
  | nil => simp [Memory.put, Memory.read, h]
  | cons c m ih =>
    obtain ⟨e, w⟩ := c
    simp only [Memory.put]
    split
    · simp [Memory.read, h]
    · split
      · subst_vars; simp [Memory.read, h]
      · simp [Memory.read, ih]

theorem Memory.read_drop_same (m : Memory) (a : Nat) :
    Memory.read font (Memory.drop a m) a = Memory.blank font a := by
  induction m with
  | nil => rfl
  | cons c m ih =>
    obtain ⟨e, w⟩ := c
    by_cases he : e = a
    · simpa [Memory.drop, he] using ih
    · have : ¬ a = e := fun h => he h.symm
      simpa [Memory.drop, he, Memory.read, this] using ih

theorem Memory.read_drop_ne (m : Memory) {a b : Nat} (h : b ≠ a) :
    Memory.read font (Memory.drop a m) b = Memory.read font m b := by
  induction m with
  | nil => rfl
  | cons c m ih =>
    obtain ⟨e, w⟩ := c
    by_cases he : e = a
    · subst he; simpa [Memory.drop, Memory.read, h] using ih
    · by_cases hb : b = e
      · simp [Memory.drop, he, Memory.read, hb]
      · simpa [Memory.drop, he, Memory.read, hb] using ih

/-- A read after a write to the same place gives the value written. -/
@[simp] theorem Memory.read_write_same (m : Memory) (a : Nat) (v : Byte) :
    Memory.read font (Memory.write font m a v) a = v := by
  unfold Memory.write
  split
  · rw [Memory.read_drop_same]; exact Eq.symm ‹_›
  · exact Memory.read_put_same font m a v

/-- A write leaves every other place alone. -/
theorem Memory.read_write_ne (m : Memory) {a b : Nat} (v : Byte) (h : b ≠ a) :
    Memory.read font (Memory.write font m a v) b = Memory.read font m b := by
  unfold Memory.write
  split
  · exact Memory.read_drop_ne font m h
  · exact Memory.read_put_ne font m v h

/-- Both at once. -/
theorem Memory.read_write (m : Memory) (a b : Nat) (v : Byte) :
    Memory.read font (Memory.write font m a v) b = if b = a then v else Memory.read font m b := by
  split
  · subst_vars; exact Memory.read_write_same font m _ v
  · exact Memory.read_write_ne font m v ‹_›

/-! The canonical form -/

/-- `Memory.rising` as the library's pairwise order. -/
theorem Memory.rising_iff (m : Memory) : Memory.rising m = true ↔ m.Pairwise (fun c d => c.1 < d.1) := by
  induction m with
  | nil => simp [Memory.rising]
  | cons c m ih =>
    cases m with
    | nil => obtain ⟨a, v⟩ := c; simp [Memory.rising]
    | cons d m =>
      obtain ⟨a, v⟩ := c
      obtain ⟨b, w⟩ := d
      simp only [Memory.rising, Bool.and_eq_true, decide_eq_true_eq, ih]
      constructor
      · rintro ⟨hab, hp⟩
        refine List.pairwise_cons.2 ⟨fun e he => ?_, hp⟩
        rcases List.mem_cons.1 he with rfl | he
        · exact hab
        · exact Nat.lt_trans hab ((List.pairwise_cons.1 hp).1 e he)
      · intro hp
        exact ⟨(List.pairwise_cons.1 hp).1 _ List.mem_cons_self, (List.pairwise_cons.1 hp).2⟩

/-- The canonical form in the library's words. -/
theorem Memory.wf_iff (m : Memory) : Memory.wf font m = true ↔
    m.Pairwise (fun c d => c.1 < d.1) ∧ ∀ c ∈ m, c.1 < memorySize ∧ c.2 ≠ Memory.blank font c.1 := by
  unfold Memory.wf
  rw [Bool.and_eq_true, Memory.rising_iff, List.all_eq_true]
  simp

theorem Memory.mem_put {c : Host.Cell} {a : Nat} {v : Byte} {m : Memory} (h : c ∈ Memory.put a v m) :
    c = (a, v) ∨ c ∈ m := by
  induction m with
  | nil => simpa [Memory.put] using h
  | cons d m ih =>
    obtain ⟨b, w⟩ := d
    simp only [Memory.put] at h
    split at h
    · rcases List.mem_cons.1 h with h | h
      · exact .inl h
      · exact .inr h
    · split at h
      · rcases List.mem_cons.1 h with h | h
        · exact .inl h
        · exact .inr (List.mem_cons_of_mem _ h)
      · rcases List.mem_cons.1 h with h | h
        · exact .inr (h ▸ List.mem_cons_self)
        · rcases ih h with h | h
          · exact .inl h
          · exact .inr (List.mem_cons_of_mem _ h)

theorem Memory.pairwise_put {m : Memory} (a : Nat) (v : Byte) (h : m.Pairwise (fun c d => c.1 < d.1)) :
    (Memory.put a v m).Pairwise (fun c d => c.1 < d.1) := by
  induction m with
  | nil => simp [Memory.put]
  | cons d m ih =>
    obtain ⟨b, w⟩ := d
    have hc := List.pairwise_cons.1 h
    simp only [Memory.put]
    split
    · refine List.pairwise_cons.2 ⟨fun e he => ?_, h⟩
      rcases List.mem_cons.1 he with rfl | he
      · assumption
      · exact Nat.lt_trans ‹_› (hc.1 e he)
    · split
      · subst_vars; exact List.pairwise_cons.2 ⟨fun e he => hc.1 e he, hc.2⟩
      · refine List.pairwise_cons.2 ⟨fun e he => ?_, ih hc.2⟩
        rcases Memory.mem_put he with rfl | he
        · show b < a; omega
        · exact hc.1 e he

/-- A write to an address of the memory keeps the canonical form. -/
theorem Memory.write_wf {m : Memory} {a : Nat} (v : Byte) (ha : a < memorySize) (h : Memory.wf font m = true) :
    Memory.wf font (Memory.write font m a v) = true := by
  rw [Memory.wf_iff] at h ⊢
  unfold Memory.write
  split
  · exact ⟨h.1.filter _, fun c hc => h.2 c (List.mem_filter.1 hc).1⟩
  · refine ⟨Memory.pairwise_put a v h.1, fun c hc => ?_⟩
    rcases Memory.mem_put hc with rfl | hc
    · exact ⟨ha, ‹_›⟩
    · exact h.2 c hc

/-- The empty list is in canonical form: memory after reset. -/
theorem Memory.wf_nil : Memory.wf font [] = true := rfl

/-! Through the state -/

@[simp] theorem State.readByte_writeByte_same (s : State) (a : Nat) (b : Byte) :
    (s.writeByte a b).readByte a = b := Memory.read_write_same _ _ _ _

theorem State.readByte_writeByte_ne (s : State) {a c : Nat} (b : Byte) (h : c ≠ a) :
    (s.writeByte a b).readByte c = s.readByte c := Memory.read_write_ne _ _ _ h

theorem State.readByte_writeByte (s : State) (a c : Nat) (b : Byte) :
    (s.writeByte a b).readByte c = if c = a then b else s.readByte c := Memory.read_write _ _ _ _ _

/-- A read of a byte hangs on `mem` and on FONT alone. -/
theorem readByte_congr {s t : State} (hm : t.mem = s.mem) (hc : t.config = s.config) (a : Nat) :
    t.readByte a = s.readByte a := by
  unfold State.readByte; rw [hm, hc]

end Sys2Proof.Machine
end

