-- ==== Sys2Proof/Laws/Ops.lean ====
section
/-! SUPPORT. What each shared operation does, said once: registers, stack, keys, the block transfers, the pixels, the
phases around a handler. -/

namespace Sys2Proof.Machine

/-! Registers -/

@[simp] theorem State.getV_setV_same (s : State) (x : Nibble) (b : Byte) : (s.setV x b).getV x = b := by
  simp [State.getV]

theorem State.getV_setV (s : State) (x r : Nibble) (b : Byte) :
    (s.setV x b).getV r = if r = x then b else s.getV r := by
  split
  · subst_vars; exact State.getV_setV_same s _ b
  · next h =>
    have hn : ¬ x.toNat = r.toNat := fun e => h (BitVec.eq_of_toNat_eq e.symm)
    simp [State.getV, hn]

theorem State.getV_setV_ne (s : State) {x r : Nibble} (b : Byte) (h : r ≠ x) : (s.setV x b).getV r = s.getV r := by
  rw [State.getV_setV, if_neg h]

/-- A register read hangs on the register file alone. -/
theorem getV_congr {s t : State} (h : t.v = s.v) (r : Nibble) : t.getV r = s.getV r := by
  unfold State.getV; simp only [h]

/-- The flag first, the result second (R132): the result wins in `x`, the flag stands in VF, nothing else changes. -/
theorem State.getV_setFlagThen (s : State) (x r : Nibble) (flag result : Byte) :
    (s.setFlagThen x flag result).getV r = if r = x then result else if r = vf then flag else s.getV r := by
  unfold State.setFlagThen; rw [State.getV_setV, State.getV_setV]

theorem State.getV_setCollision (s : State) (hit : Bool) (r : Nibble) :
    (s.setCollision hit).getV r = if hit = true ∧ r = vf then 1 else s.getV r := by
  unfold State.setCollision
  cases hit
  · simp
  · simp [State.getV_setV]

/-! Stack and keys -/

/-- A slot read hangs on the stack alone. -/
theorem slot_congr {s t : State} (h : t.stack = s.stack) (k : Nibble) : t.slot k = s.slot k := by
  unfold State.slot; simp only [h]

theorem State.slot_push (s : State) (w : Word) (k : Nibble) :
    (s.push w).slot k = if k = s.sp + 1 then w else s.slot k := by
  split
  · subst_vars; simp [State.slot]
  · next h =>
    have hn : ¬ (s.sp + 1).toNat = k.toNat := fun e => h (BitVec.eq_of_toNat_eq e.symm)
    simp only [State.slot, State.push_stack]
    rw [Vector.getElem_set_ne _ _ hn]

/-- A key read hangs on the keys alone. -/
theorem keyHeld_congr {s t : State} (h : t.keys = s.keys) (k : Nibble) : t.keyHeld k = s.keyHeld k := by
  unfold State.keyHeld; simp only [h]

theorem State.keyHeld_setKey (s : State) (k r : Nibble) (p : Bool) :
    (s.setKey k p).keyHeld r = if r = k then p else s.keyHeld r := by
  split
  · subst_vars; simp [State.keyHeld]
  · next h =>
    have hn : ¬ k.toNat = r.toNat := fun e => h (BitVec.eq_of_toNat_eq e.symm)
    simp only [State.keyHeld, State.setKey_keys]
    rw [Vector.getElem_set_ne _ _ hn]

/-! Block transfers -/

/-- Writing bytes changes memory alone. -/
theorem State.writeBytes_eq (s : State) (a : Nat) (bs : List Byte) :
    ∃ m : Memory, s.writeBytes a bs = { s with mem := m } := by
  induction bs generalizing s a with
  | nil => exact ⟨s.mem, rfl⟩
  | cons b bs ih =>
    obtain ⟨m, h⟩ := ih (s.writeByte a b) (a + 1)
    exact ⟨m, h⟩

theorem State.readByte_writeBytes (s : State) (a : Nat) (bs : List Byte) (c : Nat) :
    (s.writeBytes a bs).readByte c = if h : a ≤ c ∧ c < a + bs.length then bs[c - a]'(by omega) else s.readByte c := by
  induction bs generalizing s a with
  | nil =>
    rw [dif_neg (by simp)]; rfl
  | cons b bs ih =>
    rw [State.writeBytes, ih]
    by_cases hc : a + 1 ≤ c ∧ c < a + 1 + bs.length
    · rw [dif_pos hc, dif_pos (by simp only [List.length_cons]; omega)]
      have e : c - a = (c - (a + 1)) + 1 := by omega
      simp [e]
    · rw [dif_neg hc, State.readByte_writeByte]
      split
      · subst_vars; rw [dif_pos (by simp)]; simp
      · rw [dif_neg (by simp only [List.length_cons]; omega)]

theorem State.writeBytes_wf (s : State) (a : Nat) (bs : List Byte) (h : a + bs.length ≤ memorySize)
    (hw : Memory.wf s.config.font s.mem = true) :
    Memory.wf s.config.font (s.writeBytes a bs).mem = true := by
  induction bs generalizing s a with
  | nil => exact hw
  | cons b bs ih =>
    simp only [List.length_cons] at h
    exact ih (s.writeByte a b) (a + 1) (by omega) (Memory.write_wf _ b (by omega) hw)

/-- Storing registers changes memory alone. -/
theorem State.storeRegs_eq (s : State) (base n : Nat) : ∃ m : Memory, s.storeRegs base n = { s with mem := m } := by
  induction n with
  | zero => exact ⟨s.mem, rfl⟩
  | succ k ih =>
    obtain ⟨m, h⟩ := ih
    rw [State.storeRegs, h]
    exact ⟨_, rfl⟩

theorem State.readByte_storeRegs (s : State) (base n c : Nat) :
    (s.storeRegs base n).readByte c =
      if base ≤ c ∧ c < base + n then s.getV (BitVec.ofNat 4 (c - base)) else s.readByte c := by
  induction n with
  | zero => rw [if_neg (by omega)]; rfl
  | succ k ih =>
    rw [State.storeRegs, State.readByte_writeByte, ih]
    split
    · subst_vars; rw [if_pos (by omega)]; simp
    · split
      · rw [if_pos (by omega)]
      · rw [if_neg (by omega)]

theorem State.storeRegs_wf (s : State) (base n : Nat) (h : base + n ≤ memorySize ∨ n = 0)
    (hw : Memory.wf s.config.font s.mem = true) :
    Memory.wf s.config.font (s.storeRegs base n).mem = true := by
  induction n with
  | zero => exact hw
  | succ k ih =>
    obtain ⟨m, e⟩ := s.storeRegs_eq base k
    have hm := ih (by omega)
    rw [State.storeRegs]
    rw [e] at hm ⊢
    exact Memory.write_wf _ _ (by omega) hm

/-- Loading registers changes the register file alone. -/
theorem State.loadRegs_eq (s : State) (base n : Nat) : ∃ v : RegFile, s.loadRegs base n = { s with v := v } := by
  induction n with
  | zero => exact ⟨s.v, rfl⟩
  | succ k ih =>
    obtain ⟨v, h⟩ := ih
    rw [State.loadRegs, h]
    exact ⟨_, rfl⟩

theorem State.getV_loadRegs (s : State) (base n : Nat) (hn : n ≤ 16) (r : Nibble) :
    (s.loadRegs base n).getV r = if r.toNat < n then s.readByte (base + r.toNat) else s.getV r := by
  induction n with
  | zero => rw [if_neg (by omega)]; rfl
  | succ k ih =>
    rw [State.loadRegs, State.getV_setV, ih (by omega)]
    have hr : r = BitVec.ofNat 4 k ↔ r.toNat = k := by
      constructor
      · rintro rfl; simp; omega
      · intro h; apply BitVec.eq_of_toNat_eq; simp; omega
    by_cases h : r.toNat = k
    · rw [if_pos (hr.2 h), if_pos (by omega), h]
    · rw [if_neg (fun e => h (hr.1 e))]
      split
      · rw [if_pos (by omega)]
      · rw [if_neg (by omega)]

/-- The bound of R56: the last byte of the range is not above 4095. -/
theorem inBounds_iff (base k : Nat) : inBounds base k = true ↔ k = 0 ∨ base + k ≤ memorySize := by
  unfold inBounds memorySize
  rw [decide_eq_true_eq]
  omega

/-! Pixels -/

theorem getLsbD_columnMask (c k : Nat) (hc : c < 128) (hk : k < 128) :
    (columnMask c).getLsbD (127 - k) = decide (k = c) := by
  unfold columnMask
  simp only [BitVec.getLsbD_shiftLeft, BitVec.getLsbD_one]
  by_cases h : k = c
  · subst h; simp; omega
  · simp [h]; omega

/-- One flipped pixel changes and no other does (R28, R151). -/
theorem Display.pixel_flip (d : Display) {r c : Nat} (hr : r < 64) (hc : c < 128) (r' c' : Nat) :
    (d.flip r c).pixel r' c' = (d.pixel r' c' ^^ decide (r' = r ∧ c' = c)) := by
  unfold Display.flip Display.pixel
  rw [dif_pos hr]
  by_cases h' : r' < 64
  · rw [dif_pos h', dif_pos h']
    by_cases hc' : c' < 128
    · by_cases e : r' = r
      · subst e
        simp [hc', BitVec.getLsbD_xor, getLsbD_columnMask c c' hc hc']
      · have : ¬ r = r' := fun h => e h.symm
        rw [Vector.getElem_set_ne _ _ this]
        simp [e]
    · have : ¬ c' = c := by omega
      simp [hc', this]
  · have : ¬ r' = r := by omega
    rw [dif_neg h', dif_neg h']
    simp [this]

theorem State.frameWidth_le (s : State) : s.frameWidth ≤ 128 := by unfold State.frameWidth; split <;> omega
theorem State.frameHeight_le (s : State) : s.frameHeight ≤ 64 := by unfold State.frameHeight; split <;> omega
theorem State.eight_lt_frameWidth (s : State) : 8 < s.frameWidth := by unfold State.frameWidth; split <;> omega
theorem State.fifteen_lt_frameHeight (s : State) : 15 < s.frameHeight := by unfold State.frameHeight; split <;> omega

/-- The cleared display has no lit pixel (R150). -/
@[simp] theorem Display.pixel_clear (r c : Nat) : Display.pixel (Vector.replicate 64 0#128) r c = false := by
  unfold Display.pixel
  split <;> simp

/-! The phases around a handler -/

/-- A timer after the governor, as a number: one less, never below zero (R183). -/
theorem toNat_countDown (b : Byte) : (countDown b).toNat = b.toNat - 1 := by
  unfold countDown
  split
  · rw [BitVec.toNat_sub_of_le (by rw [BitVec.le_def]; exact ‹b.toNat > 0›)]; rfl
  · omega

theorem State.timerPhase_dt_ticked (s : State) : s.timerPhase.dt.toNat = ticked s.stepInput.tick s.dt := by
  rw [State.timerPhase_dt]; unfold ticked
  split
  · rw [toNat_countDown]; simp [*]; omega
  · simp [*]

theorem State.timerPhase_st_ticked (s : State) : s.timerPhase.st.toNat = ticked s.stepInput.tick s.st := by
  rw [State.timerPhase_st]; unfold ticked
  split
  · rw [toNat_countDown]; simp [*]; omega
  · simp [*]

/-- The phases ADVANCE and TIMER keep everything but `pc`, the timers and the model's own step input. -/
theorem retired_same (t : State) : SameBut [.pc, .timers] t t.advance.timerPhase.useInput := by
  intro p hp
  cases p
  case mem => exact fun a => readByte_congr (by simp) (by simp) a
  case regs => exact fun r => getV_congr (by simp) r
  case stack => exact fun k => slot_congr (by simp) k
  case keys => exact fun k => keyHeld_congr (by simp) k
  case pc => simp at hp
  case timers => simp at hp
  case fault => exact ⟨by simp, by simp⟩
  all_goals simp [Part.same]

/-- `finish` says all an instruction can end in: it ran, it waits, or it faulted; there is always a next state (R90). -/
theorem finish_cases (s : State) (h : Handled) :
    (∃ t, h = .done t ∧ s.finish h = .next t.advance.timerPhase.useInput) ∨
    (∃ t, h = .waiting t ∧ s.finish h = .next t.timerPhase.useInput) ∨
    (∃ c info, h = .raises c info ∧ s.finish h = .next (s.raise c info)) := by
  cases h with
  | done t => exact .inl ⟨t, rfl, rfl⟩
  | waiting t => exact .inr (.inl ⟨t, rfl, rfl⟩)
  | raises c info => exact .inr (.inr ⟨c, info, rfl, rfl⟩)

/-- No cause has code 0, which stands for NONE (R170). -/
theorem Cause.code_ne_zero (c : Cause) : c.code ≠ 0 := by cases c <;> decide

end Sys2Proof.Machine
end

