-- ==== Sys2Proof/Laws/Draw.lean ====
section
/-! SUPPORT. The sprite compositor in closed form (spec/44_display.md R151): which pixels a draw turns over and when it
collides. No pixel is visited twice, since 8 < W and 15 < H. -/

namespace Sys2Proof.Machine

/-- Two offsets below the modulus that wrap to the same place are the same offset. -/
theorem wrap_inj {w a j k : Nat} (hj : j < w) (hk : k < w) (h : (a + j) % w = (a + k) % w) : j = k := by
  have := Nat.ModEq.add_left_cancel' a h
  rwa [Nat.ModEq, Nat.mod_eq_of_lt hj, Nat.mod_eq_of_lt hk] at this

@[simp] theorem Canvas.plot_display (cv : Canvas) (r c : Nat) : (cv.plot r c).display = cv.display.flip r c := rfl

@[simp] theorem Canvas.plot_hit (cv : Canvas) (r c : Nat) :
    (cv.plot r c).hit = (cv.hit || cv.display.pixel r c) := rfl

/-- Some pixel of the sprite row `b`, among its first `k`, lands in column `c` of a frame `w` wide. -/
def RowCovers (w vx : Nat) (b : Byte) (k c : Nat) : Prop :=
  ∃ j : Nat, j < k ∧ b.getLsbD (7 - j) = true ∧ c = (vx + j) % w

open Classical in
/-- One sprite row turns over exactly the pixels it covers. -/
theorem Canvas.pixel_drawRow (cv : Canvas) {w r : Nat} (vx : Nat) (b : Byte) (hw : 8 ≤ w) (hw' : w ≤ 128) (hr : r < 64)
    (k : Nat) (hk : k ≤ 8) (r' c : Nat) :
    (cv.drawRow w r vx b k).display.pixel r' c =
      (cv.display.pixel r' c ^^ decide (r' = r ∧ RowCovers w vx b k c)) := by
  induction k with
  | zero => simp [Canvas.drawRow, RowCovers]
  | succ j ih =>
    have hlt : (vx + j) % w < 128 := Nat.lt_of_lt_of_le (Nat.mod_lt _ (by omega)) hw'
    have hsucc : RowCovers w vx b (j + 1) c ↔
        RowCovers w vx b j c ∨ (b.getLsbD (7 - j) = true ∧ c = (vx + j) % w) := by
      constructor
      · rintro ⟨i, hi, hb, hc⟩
        rcases Nat.lt_succ_iff_lt_or_eq.1 hi with h | rfl
        · exact .inl ⟨i, h, hb, hc⟩
        · exact .inr ⟨hb, hc⟩
      · rintro (⟨i, hi, hb, hc⟩ | ⟨hb, hc⟩)
        · exact ⟨i, by omega, hb, hc⟩
        · exact ⟨j, by omega, hb, hc⟩
    rw [Canvas.drawRow]
    cases hb : b.getLsbD (7 - j) with
    | false => simp [ih (by omega), hsucc, hb]
    | true =>
      have hno : c = (vx + j) % w → ¬ RowCovers w vx b j c := by
        rintro hc ⟨i, hi, -, hci⟩
        have := wrap_inj (a := vx) (w := w) (j := i) (k := j) (by omega) (by omega) (by omega)
        omega
      simp only [if_true, Canvas.plot_display, Display.pixel_flip _ hr hlt, ih (by omega), hsucc, hb, true_and]
      by_cases h1 : r' = r <;> by_cases h2 : c = (vx + j) % w <;> by_cases h3 : RowCovers w vx b j c <;>
        simp_all

/-- One sprite row collides exactly when a pixel it covers was lit before the row. -/
theorem Canvas.hit_drawRow (cv : Canvas) {w r : Nat} (vx : Nat) (b : Byte) (hw : 8 ≤ w) (hw' : w ≤ 128) (hr : r < 64)
    (k : Nat) (hk : k ≤ 8) :
    (cv.drawRow w r vx b k).hit = true ↔
      cv.hit = true ∨ ∃ c, RowCovers w vx b k c ∧ cv.display.pixel r c = true := by
  classical
  induction k with
  | zero => simp [Canvas.drawRow, RowCovers]
  | succ j ih =>
    rw [Canvas.drawRow]
    cases hb : b.getLsbD (7 - j) with
    | false =>
      simp only [Bool.false_eq_true, if_false, ih (by omega)]
      refine or_congr_right (exists_congr fun c => and_congr_left fun _ => ?_)
      constructor
      · rintro ⟨i, hi, h⟩; exact ⟨i, by omega, h⟩
      · rintro ⟨i, hi, h, hc⟩
        rcases Nat.lt_succ_iff_lt_or_eq.1 hi with hi | rfl
        · exact ⟨i, hi, h, hc⟩
        · rw [hb] at h; cases h
    | true =>
      have hno : ¬ RowCovers w vx b j ((vx + j) % w) := by
        rintro ⟨i, hi, -, hci⟩
        have := wrap_inj (a := vx) (w := w) (j := i) (k := j) (by omega) (by omega) hci.symm
        omega
      have hpix : (cv.drawRow w r vx b j).display.pixel r ((vx + j) % w) = cv.display.pixel r ((vx + j) % w) := by
        rw [Canvas.pixel_drawRow cv vx b hw hw' hr j (by omega), decide_eq_false (fun h => hno h.2), Bool.xor_false]
      simp only [if_true, Canvas.plot_hit, Bool.or_eq_true, ih (by omega), hpix]
      constructor
      · rintro ((h | ⟨c, ⟨i, hi, h⟩, hp⟩) | h)
        · exact .inl h
        · exact .inr ⟨c, ⟨i, by omega, h⟩, hp⟩
        · exact .inr ⟨_, ⟨j, by omega, hb, rfl⟩, h⟩
      · rintro (h | ⟨c, ⟨i, hi, h, hc⟩, hp⟩)
        · exact .inl (.inl h)
        · rcases Nat.lt_succ_iff_lt_or_eq.1 hi with hi | rfl
          · exact .inl (.inr ⟨c, ⟨i, hi, h, hc⟩, hp⟩)
          · exact .inr (hc ▸ hp)

/-- The rows of a sprite, by the row they land on. -/
theorem covers_succ (s : State) (vx vy k r c : Nat) :
    covers s vx vy (k + 1) r c ↔ covers s vx vy k r c ∨
      (r = (vy + k) % s.frameHeight ∧ RowCovers s.frameWidth vx (s.readByte (s.index.toNat + k)) 8 c) := by
  constructor
  · rintro ⟨i, j, hi, hj, hb, hr, hc⟩
    rcases Nat.lt_succ_iff_lt_or_eq.1 hi with hi | rfl
    · exact .inl ⟨i, j, hi, hj, hb, hr, hc⟩
    · exact .inr ⟨hr, j, hj, hb, hc⟩
  · rintro (⟨i, j, hi, hj, hb, hr, hc⟩ | ⟨hr, j, hj, hb, hc⟩)
    · exact ⟨i, j, by omega, hj, hb, hr, hc⟩
    · exact ⟨k, j, by omega, hj, hb, hr, hc⟩

/-- Rows drawn before row `k` do not touch the row that row `k` lands on. -/
theorem not_covers_row (s : State) (vx vy k c : Nat) (hk : k ≤ 15) :
    ¬ covers s vx vy k ((vy + k) % s.frameHeight) c := by
  rintro ⟨i, j, hi, -, -, hr, -⟩
  have hH := s.fifteen_lt_frameHeight
  have := wrap_inj (a := vy) (w := s.frameHeight) (j := i) (k := k) (by omega) (by omega) hr.symm
  omega

open Classical in
/-- A sprite turns over exactly the pixels it covers (R151). -/
theorem State.pixel_drawRows (s : State) (vx vy n : Nat) (hn : n ≤ 15) (r c : Nat) :
    (s.drawRows vx vy n).display.pixel r c = (s.display.pixel r c ^^ decide (covers s vx vy n r c)) := by
  induction n with
  | zero => simp [State.drawRows, covers]
  | succ k ih =>
    have hW := s.eight_lt_frameWidth
    have hrow : (vy + k) % s.frameHeight < 64 :=
      Nat.lt_of_lt_of_le (Nat.mod_lt _ (by have := s.fifteen_lt_frameHeight; omega)) s.frameHeight_le
    rw [State.drawRows, Canvas.pixel_drawRow _ _ _ (by omega) s.frameWidth_le hrow 8 (by omega), ih (by omega)]
    by_cases h : r = (vy + k) % s.frameHeight
    · have hno := not_covers_row s vx vy k c (by omega)
      rw [← h] at hno
      simp [covers_succ, hno, h.symm]
    · simp [covers_succ, h]

/-- A sprite collides exactly when a pixel it covers was lit before the draw (R151). -/
theorem State.hit_drawRows (s : State) (vx vy n : Nat) (hn : n ≤ 15) :
    (s.drawRows vx vy n).hit = true ↔ ∃ r c, covers s vx vy n r c ∧ s.display.pixel r c = true := by
  classical
  induction n with
  | zero => simp [State.drawRows, covers]
  | succ k ih =>
    have hW := s.eight_lt_frameWidth
    have hrow : (vy + k) % s.frameHeight < 64 :=
      Nat.lt_of_lt_of_le (Nat.mod_lt _ (by have := s.fifteen_lt_frameHeight; omega)) s.frameHeight_le
    rw [State.drawRows, Canvas.hit_drawRow _ _ _ (by omega) s.frameWidth_le hrow 8 (by omega), ih (by omega)]
    have key : ∀ c, (s.drawRows vx vy k).display.pixel ((vy + k) % s.frameHeight) c =
        s.display.pixel ((vy + k) % s.frameHeight) c := fun c => by
      rw [State.pixel_drawRows s vx vy k (by omega), decide_eq_false (not_covers_row s vx vy k c (by omega)),
        Bool.xor_false]
    simp only [key]
    constructor
    · rintro (⟨r, c, h, hp⟩ | ⟨c, h, hp⟩)
      · exact ⟨r, c, (covers_succ ..).2 (.inl h), hp⟩
      · exact ⟨_, c, (covers_succ ..).2 (.inr ⟨rfl, h⟩), hp⟩
    · rintro ⟨r, c, h, hp⟩
      rcases (covers_succ ..).1 h with hc | ⟨hr, hc⟩
      · exact .inl ⟨r, c, hc, hp⟩
      · exact .inr ⟨c, hc, hr ▸ hp⟩

/-! What DRW writes -/

@[simp] theorem State.showCanvas_display (s : State) (cv : Canvas) : (s.showCanvas cv).display = cv.display := by
  simp [State.showCanvas]

@[simp] theorem State.showCanvas_needsRedraw (s : State) (cv : Canvas) : (s.showCanvas cv).needsRedraw = true := by
  simp [State.showCanvas]

@[simp] theorem State.showCanvas_mem (s : State) (cv : Canvas) : (s.showCanvas cv).mem = s.mem := by simp [State.showCanvas]
@[simp] theorem State.showCanvas_pc (s : State) (cv : Canvas) : (s.showCanvas cv).pc = s.pc := by simp [State.showCanvas]
@[simp] theorem State.showCanvas_index (s : State) (cv : Canvas) : (s.showCanvas cv).index = s.index := by simp [State.showCanvas]
@[simp] theorem State.showCanvas_stack (s : State) (cv : Canvas) : (s.showCanvas cv).stack = s.stack := by simp [State.showCanvas]
@[simp] theorem State.showCanvas_sp (s : State) (cv : Canvas) : (s.showCanvas cv).sp = s.sp := by simp [State.showCanvas]
@[simp] theorem State.showCanvas_dt (s : State) (cv : Canvas) : (s.showCanvas cv).dt = s.dt := by simp [State.showCanvas]
@[simp] theorem State.showCanvas_st (s : State) (cv : Canvas) : (s.showCanvas cv).st = s.st := by simp [State.showCanvas]
@[simp] theorem State.showCanvas_keys (s : State) (cv : Canvas) : (s.showCanvas cv).keys = s.keys := by simp [State.showCanvas]
@[simp] theorem State.showCanvas_highResolution (s : State) (cv : Canvas) : (s.showCanvas cv).highResolution = s.highResolution := by simp [State.showCanvas]
@[simp] theorem State.showCanvas_halted (s : State) (cv : Canvas) : (s.showCanvas cv).halted = s.halted := by simp [State.showCanvas]
@[simp] theorem State.showCanvas_faultCause (s : State) (cv : Canvas) : (s.showCanvas cv).faultCause = s.faultCause := by simp [State.showCanvas]
@[simp] theorem State.showCanvas_faultInfo (s : State) (cv : Canvas) : (s.showCanvas cv).faultInfo = s.faultInfo := by simp [State.showCanvas]
@[simp] theorem State.showCanvas_config (s : State) (cv : Canvas) : (s.showCanvas cv).config = s.config := by simp [State.showCanvas]
@[simp] theorem State.showCanvas_inputs (s : State) (cv : Canvas) : (s.showCanvas cv).inputs = s.inputs := by simp [State.showCanvas]
@[simp] theorem State.showCanvas_draws (s : State) (cv : Canvas) : (s.showCanvas cv).draws = s.draws := by simp [State.showCanvas]

theorem State.getV_showCanvas (s : State) (cv : Canvas) (r : Nibble) :
    (s.showCanvas cv).getV r = if cv.hit = true ∧ r = vf then 1 else s.getV r := by
  unfold State.showCanvas
  rw [State.getV_setCollision]
  rfl

end Sys2Proof.Machine
end

