-- ==== Sys2Proof/Laws/Step.lean ====
section
/-! SUPPORT. What a step can do, said once: `exec` is the handler and the rest of the step, and a step has four cases. -/

namespace Sys2Proof.Machine

/-- `exec` is phase EXECUTE followed by the rest of the step, for every instruction (R90). -/
theorem exec_eq_finish (i : Instr) (s : State) : exec i s = s.finish (handle i s) := by cases i <;> rfl

/-- All that a step can be (R90 to R93). -/
theorem step_cases (s : State) :
    (s.halted = true ∧ step s = .next s) ∨
    (s.halted = false ∧ s.fetch = none ∧ step s = .next (s.raise .pcOutOfRange s.pc)) ∨
    (∃ ir e, s.halted = false ∧ s.fetch = some ir ∧ decodeWord ir = .error e ∧
      step s = .next (s.raise .unknownOpcode ir)) ∨
    (∃ ir i, s.halted = false ∧ s.fetch = some ir ∧ decodeWord ir = .ok i ∧ step s = exec i s) := by
  cases hh : s.halted with
  | true => exact .inl ⟨rfl, by simp [step, hh]⟩
  | false =>
    cases hf : s.fetch with
    | none => exact .inr (.inl ⟨rfl, rfl, by simp [step, hh, hf]⟩)
    | some ir =>
      cases hd : decodeWord ir with
      | error e => exact .inr (.inr (.inl ⟨ir, e, rfl, rfl, hd, by simp [step, hh, hf, hd]⟩))
      | ok i => exact .inr (.inr (.inr ⟨ir, i, rfl, rfl, hd, by simp [step, hh, hf, hd]⟩))

/-- A fetch succeeds exactly when `pc + 1 < 4096` (R92). -/
theorem fetch_eq_some (s : State) (h : s.pc.toNat + 1 < 4096) :
    s.fetch = some (wordOfBytes (s.readByte s.pc.toNat) (s.readByte (s.pc.toNat + 1))) := by
  unfold State.fetch; rw [if_neg (by omega)]

theorem fetch_some_bound {s : State} {ir : Word} (h : s.fetch = some ir) : s.pc.toNat ≤ 4094 := by
  unfold State.fetch at h
  split at h
  · cases h
  · omega

/-! What a handler can answer -/

/-- A handler that raises a fault raises one of the execute-phase causes, with its own word as information (R170, R180). -/
theorem handle_raises {i : Instr} {s : State} {c : Cause} {info : Word} (h : handle i s = .raises c info) :
    3 ≤ c.code.toNat ∧ c.code.toNat ≤ 7 ∧ info = encode i := by
  cases i
  case ret =>
    simp only [handle, handleRet] at h
    split at h
    · cases h; exact ⟨by decide, by decide, rfl⟩
    · cases h
  case call =>
    simp only [handle, handleCall] at h
    split at h
    · cases h; exact ⟨by decide, by decide, rfl⟩
    · cases h
  case drwVxVyN =>
    simp only [handle, handleDrwVxVyN] at h
    split at h
    · cases h
    · cases h; exact ⟨by decide, by decide, rfl⟩
  case skpVx =>
    simp only [handle, handleSkpVx] at h
    split at h
    · cases h; exact ⟨by decide, by decide, rfl⟩
    · cases h
  case sknpVx =>
    simp only [handle, handleSknpVx] at h
    split at h
    · cases h; exact ⟨by decide, by decide, rfl⟩
    · cases h
  case ldVxK =>
    simp only [handle, handleLdVxK, pollKey] at h
    split at h
    · cases h; exact ⟨by decide, by decide, rfl⟩
    · split at h <;> cases h
  case ldBVx =>
    simp only [handle, handleLdBVx] at h
    split at h
    · cases h
    · cases h; exact ⟨by decide, by decide, rfl⟩
  case ldMemVx =>
    simp only [handle, handleLdMemVx] at h
    split at h
    · cases h
    · cases h; exact ⟨by decide, by decide, rfl⟩
  case ldVxMem =>
    simp only [handle, handleLdVxMem] at h
    split at h
    · cases h
    · cases h; exact ⟨by decide, by decide, rfl⟩
  all_goals cases h

/-- A handler that runs through or waits leaves the fault record, the configuration, the keys, `high_resolution` and the
step input alone: no instruction writes them (R20). -/
theorem handle_keeps {i : Instr} {s t : State} (h : handle i s = .done t ∨ handle i s = .waiting t) :
    t.faultCause = s.faultCause ∧ t.faultInfo = s.faultInfo ∧ t.config = s.config ∧ t.keys = s.keys ∧
      t.highResolution = s.highResolution ∧ t.inputs = s.inputs ∧ t.draws = s.draws := by
  cases i
  case ret =>
    simp only [handle, handleRet] at h
    split at h <;> rcases h with h | h <;> cases h <;> simp
  case call =>
    simp only [handle, handleCall] at h
    split at h <;> rcases h with h | h <;> cases h <;> simp
  case drwVxVyN =>
    simp only [handle, handleDrwVxVyN] at h
    split at h <;> rcases h with h | h <;> cases h <;> simp
  case skpVx =>
    simp only [handle, handleSkpVx] at h
    split at h <;> rcases h with h | h <;> cases h <;> simp
  case sknpVx =>
    simp only [handle, handleSknpVx] at h
    split at h <;> rcases h with h | h <;> cases h <;> simp
  case ldVxK =>
    simp only [handle, handleLdVxK, pollKey] at h
    split at h
    · rcases h with h | h <;> cases h
    · split at h <;> rcases h with h | h <;> cases h <;> simp
  case ldBVx x =>
    obtain ⟨m, e⟩ := s.writeBytes_eq (baseAddress s) (bcdDigits (s.getV x))
    simp only [handle, handleLdBVx, e] at h
    split at h <;> rcases h with h | h <;> cases h <;> simp
  case ldMemVx x =>
    obtain ⟨m, e⟩ := s.storeRegs_eq (baseAddress s) x.toNat
    simp only [handle, handleLdMemVx, e] at h
    split at h <;> rcases h with h | h <;> cases h <;> simp
  case ldVxMem x =>
    obtain ⟨v, e⟩ := s.loadRegs_eq (baseAddress s) x.toNat
    simp only [handle, handleLdVxMem, e] at h
    split at h <;> rcases h with h | h <;> cases h <;> simp
  all_goals
    rcases h with h | h <;> cases h <;> simp [State.setFlagThen]

end Sys2Proof.Machine
end

