-- ==== Sys2Proof/Laws/Frame.lean ====
section
/-! SUPPORT. How a frame is shown: a part whose fields are equal is the same part, so `SameBut` follows from equations
between fields, which the simp lemmas of Laws/State.lean close. -/

namespace Sys2Proof.Machine

/-- The fields of a part are equal. -/
def Part.fieldsEqual (p : Part) (s t : State) : Prop :=
  match p with
  | .mem => t.mem = s.mem ∧ t.config = s.config
  | .pc => t.pc = s.pc
  | .regs => t.v = s.v
  | .index => t.index = s.index
  | .stack => t.stack = s.stack
  | .sp => t.sp = s.sp
  | .timers => t.dt = s.dt ∧ t.st = s.st
  | .keys => t.keys = s.keys
  | .display => t.display = s.display
  | .highResolution => t.highResolution = s.highResolution
  | .needsRedraw => t.needsRedraw = s.needsRedraw
  | .halted => t.halted = s.halted
  | .fault => t.faultCause = s.faultCause ∧ t.faultInfo = s.faultInfo
  | .config => t.config = s.config

/-- Equal fields make the same part. -/
theorem Part.same_of_fieldsEqual {p : Part} {s t : State} (h : p.fieldsEqual s t) : p.same s t := by
  cases p
  case mem => exact fun a => readByte_congr h.1 h.2 a
  case regs => exact fun r => getV_congr h r
  case stack => exact fun k => slot_congr h k
  case keys => exact fun k => keyHeld_congr h k
  case display => intro r c; simp only [Part.fieldsEqual] at h; rw [h]
  all_goals exact h

/-- A frame from equations between fields. -/
theorem SameBut.of_fields {ps : List Part} {s t : State} (h : ∀ p : Part, p ∉ ps → p.fieldsEqual s t) :
    SameBut ps s t := fun p hp => Part.same_of_fieldsEqual (h p hp)

/-- Frames chain. -/
theorem SameBut.trans {ps qs : List Part} {s t u : State} (h : SameBut ps s t) (h' : SameBut qs t u) :
    SameBut (ps ++ qs) s u := by
  intro p hp
  have h1 := h p fun m => hp (List.mem_append_left _ m)
  have h2 := h' p fun m => hp (List.mem_append_right _ m)
  cases p
  case mem => exact fun a => (h2 a).trans (h1 a)
  case regs => exact fun a => (h2 a).trans (h1 a)
  case stack => exact fun a => (h2 a).trans (h1 a)
  case keys => exact fun a => (h2 a).trans (h1 a)
  case display => exact fun r c => (h2 r c).trans (h1 r c)
  case timers => exact ⟨h2.1.trans h1.1, h2.2.trans h1.2⟩
  case fault => exact ⟨h2.1.trans h1.1, h2.2.trans h1.2⟩
  all_goals exact Eq.trans h2 h1

/-- A frame may list more than it needs. -/
theorem SameBut.mono {ps qs : List Part} {s t : State} (h : SameBut ps s t) (hs : ∀ p, p ∈ ps → p ∈ qs) :
    SameBut qs s t := fun p hp => h p fun m => hp (hs p m)

/-- What `exec` answers when the handler ran through. -/
theorem exec_of_done {i : Instr} {s t : State} (h : handle i s = .done t) :
    exec i s = .next t.advance.timerPhase.useInput := by
  rw [exec_eq_finish, h]; rfl

/-- What `exec` answers when the handler raised a fault. -/
theorem exec_of_raises {i : Instr} {s : State} {c : Cause} {info : Word} (h : handle i s = .raises c info) :
    exec i s = .next (s.raise c info) := by
  rw [exec_eq_finish, h]; rfl

/-- What `exec` answers when the handler waits. -/
theorem exec_of_waiting {i : Instr} {s t : State} (h : handle i s = .waiting t) :
    exec i s = .next t.timerPhase.useInput := by
  rw [exec_eq_finish, h]; rfl

/-- The fault entry of R179 as the statements spell it. -/
theorem faultEntry_raise (s : State) (c : Cause) (info : Word) : FaultEntry s c.code.toNat info (s.raise c info) := by
  unfold FaultEntry State.raise
  rw [BitVec.ofNat_toNat, BitVec.setWidth_eq]

end Sys2Proof.Machine
end

