-- ==== Sys2Proof/Laws/PerInstr.lean ====
section
/-! SUPPORT. Statements made per instruction. EncodingShape: the word of an instruction is selected by the instruction's own
row of the opcode map (spec/30_encoding.md R75), and that row reads the instruction back from it, every operand included. -/

namespace Sys2Proof

/-- The place of an instruction's row in R75, counted from 0. -/
def rowIndex : Instr → Nat
  | .cls => 0
  | .ret => 1
  | .halt _ => 2
  | .jp _ => 3
  | .call _ => 4
  | .seVxKk _ _ => 5
  | .sneVxKk _ _ => 6
  | .seVxVy _ _ => 7
  | .ldVxKk _ _ => 8
  | .addVxKk _ _ => 9
  | .ldVxVy _ _ => 10
  | .orVxVy _ _ => 11
  | .andVxVy _ _ => 12
  | .xorVxVy _ _ => 13
  | .addVxVy _ _ => 14
  | .subVxVy _ _ => 15
  | .shrVx _ _ => 16
  | .subnVxVy _ _ => 17
  | .shlVx _ _ => 18
  | .sneVxVy _ _ => 19
  | .ldINnn _ => 20
  | .jpV0Nnn _ => 21
  | .rndVxKk _ _ => 22
  | .drwVxVyN _ _ _ => 23
  | .skpVx _ => 24
  | .sknpVx _ => 25
  | .ldVxDt _ => 26
  | .ldVxK _ => 27
  | .ldDtVx _ => 28
  | .ldStVx _ => 29
  | .addIVx _ => 30
  | .ldFVx _ => 31
  | .ldBVx _ => 32
  | .ldMemVx _ => 33
  | .ldVxMem _ => 34

/-! A row's mask and match on a packed word, by format -/

theorem selects_nnn (op : Nibble) (nnn : Addr12) {m p : Word} (hm : m = packXyn 15 0 0 0) (hp : p = packXyn op 0 0 0) :
    (packNnn op nnn &&& m == p) = true := by
  subst hm hp
  rw [packNnn_eq, packXyn_and, beq_iff_eq, packXyn_inj]
  exact ⟨BitVec.and_allOnes (x := op), BitVec.and_zero, BitVec.and_zero, BitVec.and_zero⟩

theorem selects_xkk (op x : Nibble) (kk : Byte) {m p : Word} (hm : m = packXyn 15 0 0 0)
    (hp : p = packXyn op 0 0 0) : (packXkk op x kk &&& m == p) = true := by
  subst hm hp
  rw [packXkk_eq, packXyn_and, beq_iff_eq, packXyn_inj]
  exact ⟨BitVec.and_allOnes (x := op), BitVec.and_zero, BitVec.and_zero, BitVec.and_zero⟩

theorem selects_xyn (op x y n : Nibble) {m p : Word} (hm : m = packXyn 15 0 0 0) (hp : p = packXyn op 0 0 0) :
    (packXyn op x y n &&& m == p) = true := by
  subst hm hp
  rw [packXyn_and, beq_iff_eq, packXyn_inj]
  exact ⟨BitVec.and_allOnes (x := op), BitVec.and_zero, BitVec.and_zero, BitVec.and_zero⟩

theorem selects_xysub (op x y sub : Nibble) {m p : Word} (hm : m = packXyn 15 0 0 15) (hp : p = packXyn op 0 0 sub) :
    (packXyn op x y sub &&& m == p) = true := by
  subst hm hp
  rw [packXyn_and, beq_iff_eq, packXyn_inj]
  exact ⟨BitVec.and_allOnes (x := op), BitVec.and_zero, BitVec.and_zero, BitVec.and_allOnes (x := sub)⟩

theorem selects_xsub (op x : Nibble) (sub : Byte) {m p : Word} (hm : m = packXyn 15 0 15 15)
    (hp : p = packXkk op 0 sub) : (packXkk op x sub &&& m == p) = true := by
  subst hm hp
  rw [packXkk_eq, packXkk_eq, packXyn_and, beq_iff_eq, packXyn_inj]
  exact ⟨BitVec.and_allOnes (x := op), BitVec.and_zero, BitVec.and_allOnes (x := sub.extractLsb' 4 4),
    BitVec.and_allOnes (x := sub.extractLsb' 0 4)⟩

namespace Laws.EncodingShape

/-- The instruction's own row selects its word and reads the instruction back. -/
def Statement (i : Instr) : Prop :=
  ∃ r : Row, opcodeRows[rowIndex i]? = some r ∧ r.selects (encode i) = true ∧ r.make (encode i) = i

theorem cls : Statement (.cls) :=
  ⟨_, rfl, by decide, rfl⟩

theorem ret : Statement (.ret) :=
  ⟨_, rfl, by decide, rfl⟩

theorem halt (nnn : Addr12) : Statement (.halt nnn) :=
  ⟨_, rfl, selects_nnn _ nnn (by decide) (by decide), by simp only [encode, fieldNnn_packNnn]⟩

theorem jp (nnn : Addr12) : Statement (.jp nnn) :=
  ⟨_, rfl, selects_nnn _ nnn (by decide) (by decide), by simp only [encode, fieldNnn_packNnn]⟩

theorem call (nnn : Addr12) : Statement (.call nnn) :=
  ⟨_, rfl, selects_nnn _ nnn (by decide) (by decide), by simp only [encode, fieldNnn_packNnn]⟩

theorem seVxKk (x : Nibble) (kk : Byte) : Statement (.seVxKk x kk) :=
  ⟨_, rfl, selects_xkk _ x kk (by decide) (by decide), by simp only [encode, fieldX_packXkk, fieldKk_packXkk]⟩

theorem sneVxKk (x : Nibble) (kk : Byte) : Statement (.sneVxKk x kk) :=
  ⟨_, rfl, selects_xkk _ x kk (by decide) (by decide), by simp only [encode, fieldX_packXkk, fieldKk_packXkk]⟩

theorem seVxVy (x : Nibble) (y : Nibble) : Statement (.seVxVy x y) :=
  ⟨_, rfl, selects_xysub _ x y _ (by decide) (by decide), by simp only [encode, fieldX_packXyn, fieldY_packXyn]⟩

theorem ldVxKk (x : Nibble) (kk : Byte) : Statement (.ldVxKk x kk) :=
  ⟨_, rfl, selects_xkk _ x kk (by decide) (by decide), by simp only [encode, fieldX_packXkk, fieldKk_packXkk]⟩

theorem addVxKk (x : Nibble) (kk : Byte) : Statement (.addVxKk x kk) :=
  ⟨_, rfl, selects_xkk _ x kk (by decide) (by decide), by simp only [encode, fieldX_packXkk, fieldKk_packXkk]⟩

theorem ldVxVy (x : Nibble) (y : Nibble) : Statement (.ldVxVy x y) :=
  ⟨_, rfl, selects_xysub _ x y _ (by decide) (by decide), by simp only [encode, fieldX_packXyn, fieldY_packXyn]⟩

theorem orVxVy (x : Nibble) (y : Nibble) : Statement (.orVxVy x y) :=
  ⟨_, rfl, selects_xysub _ x y _ (by decide) (by decide), by simp only [encode, fieldX_packXyn, fieldY_packXyn]⟩

theorem andVxVy (x : Nibble) (y : Nibble) : Statement (.andVxVy x y) :=
  ⟨_, rfl, selects_xysub _ x y _ (by decide) (by decide), by simp only [encode, fieldX_packXyn, fieldY_packXyn]⟩

theorem xorVxVy (x : Nibble) (y : Nibble) : Statement (.xorVxVy x y) :=
  ⟨_, rfl, selects_xysub _ x y _ (by decide) (by decide), by simp only [encode, fieldX_packXyn, fieldY_packXyn]⟩

theorem addVxVy (x : Nibble) (y : Nibble) : Statement (.addVxVy x y) :=
  ⟨_, rfl, selects_xysub _ x y _ (by decide) (by decide), by simp only [encode, fieldX_packXyn, fieldY_packXyn]⟩

theorem subVxVy (x : Nibble) (y : Nibble) : Statement (.subVxVy x y) :=
  ⟨_, rfl, selects_xysub _ x y _ (by decide) (by decide), by simp only [encode, fieldX_packXyn, fieldY_packXyn]⟩

theorem shrVx (x : Nibble) (y : Nibble) : Statement (.shrVx x y) :=
  ⟨_, rfl, selects_xysub _ x y _ (by decide) (by decide), by simp only [encode, fieldX_packXyn, fieldY_packXyn]⟩

theorem subnVxVy (x : Nibble) (y : Nibble) : Statement (.subnVxVy x y) :=
  ⟨_, rfl, selects_xysub _ x y _ (by decide) (by decide), by simp only [encode, fieldX_packXyn, fieldY_packXyn]⟩

theorem shlVx (x : Nibble) (y : Nibble) : Statement (.shlVx x y) :=
  ⟨_, rfl, selects_xysub _ x y _ (by decide) (by decide), by simp only [encode, fieldX_packXyn, fieldY_packXyn]⟩

theorem sneVxVy (x : Nibble) (y : Nibble) : Statement (.sneVxVy x y) :=
  ⟨_, rfl, selects_xysub _ x y _ (by decide) (by decide), by simp only [encode, fieldX_packXyn, fieldY_packXyn]⟩

theorem ldINnn (nnn : Addr12) : Statement (.ldINnn nnn) :=
  ⟨_, rfl, selects_nnn _ nnn (by decide) (by decide), by simp only [encode, fieldNnn_packNnn]⟩

theorem jpV0Nnn (nnn : Addr12) : Statement (.jpV0Nnn nnn) :=
  ⟨_, rfl, selects_nnn _ nnn (by decide) (by decide), by simp only [encode, fieldNnn_packNnn]⟩

theorem rndVxKk (x : Nibble) (kk : Byte) : Statement (.rndVxKk x kk) :=
  ⟨_, rfl, selects_xkk _ x kk (by decide) (by decide), by simp only [encode, fieldX_packXkk, fieldKk_packXkk]⟩

theorem drwVxVyN (x : Nibble) (y : Nibble) (n : Nibble) : Statement (.drwVxVyN x y n) :=
  ⟨_, rfl, selects_xyn _ x y n (by decide) (by decide), by simp only [encode, fieldX_packXyn, fieldY_packXyn, fieldN_packXyn]⟩

theorem skpVx (x : Nibble) : Statement (.skpVx x) :=
  ⟨_, rfl, selects_xsub _ x _ (by decide) (by decide), by simp only [encode, fieldX_packXkk]⟩

theorem sknpVx (x : Nibble) : Statement (.sknpVx x) :=
  ⟨_, rfl, selects_xsub _ x _ (by decide) (by decide), by simp only [encode, fieldX_packXkk]⟩

theorem ldVxDt (x : Nibble) : Statement (.ldVxDt x) :=
  ⟨_, rfl, selects_xsub _ x _ (by decide) (by decide), by simp only [encode, fieldX_packXkk]⟩

theorem ldVxK (x : Nibble) : Statement (.ldVxK x) :=
  ⟨_, rfl, selects_xsub _ x _ (by decide) (by decide), by simp only [encode, fieldX_packXkk]⟩

theorem ldDtVx (x : Nibble) : Statement (.ldDtVx x) :=
  ⟨_, rfl, selects_xsub _ x _ (by decide) (by decide), by simp only [encode, fieldX_packXkk]⟩

theorem ldStVx (x : Nibble) : Statement (.ldStVx x) :=
  ⟨_, rfl, selects_xsub _ x _ (by decide) (by decide), by simp only [encode, fieldX_packXkk]⟩

theorem addIVx (x : Nibble) : Statement (.addIVx x) :=
  ⟨_, rfl, selects_xsub _ x _ (by decide) (by decide), by simp only [encode, fieldX_packXkk]⟩

theorem ldFVx (x : Nibble) : Statement (.ldFVx x) :=
  ⟨_, rfl, selects_xsub _ x _ (by decide) (by decide), by simp only [encode, fieldX_packXkk]⟩

theorem ldBVx (x : Nibble) : Statement (.ldBVx x) :=
  ⟨_, rfl, selects_xsub _ x _ (by decide) (by decide), by simp only [encode, fieldX_packXkk]⟩

theorem ldMemVx (x : Nibble) : Statement (.ldMemVx x) :=
  ⟨_, rfl, selects_xsub _ x _ (by decide) (by decide), by simp only [encode, fieldX_packXkk]⟩

theorem ldVxMem (x : Nibble) : Statement (.ldVxMem x) :=
  ⟨_, rfl, selects_xsub _ x _ (by decide) (by decide), by simp only [encode, fieldX_packXkk]⟩

end Laws.EncodingShape

end Sys2Proof
end

