-- ==== Sys2Proof/Tests/Slice0.lean ====
section
/-! SUPPORT. Tests and witnesses. Every expected value is a vector of spec/95_test_vectors.md (named in each comment) or is
worked out by hand from the rule cited; every instruction word is written out from the map of spec/30_encoding.md R75. -/

namespace Sys2Proof.Tests

open Sys2Proof Sys2Proof.Machine

/-! ## Small states -/

/-- The start of a vector of spec/95: reset, `pc = 0x200`, and the step input `rand = 0`, `tick = 0`. -/
def launch : State := { State.reset with pc := 0x200, inputs := [⟨0, false⟩] }

/-- The same with `tick = 1`. -/
def launchTick : State := { launch with inputs := [⟨0, true⟩] }

/-- Registers set from a list. -/
def withV (s : State) (l : List (Nibble × Byte)) : State := l.foldl (fun t p => t.setV p.1 p.2) s

/-- The state after one step that fetches the word `w` at `pc`. -/
def runWord (w : Word) (s : State) : State :=
  let s' := s.withFetchWord 16 w.toNat
  stateAfter s' (step s')

/-- The fields of a fault vector: `halted`, `fault_cause`, `fault_info`, `pc`. -/
def faultRecord (s : State) : Bool × Nat × Nat × Nat := (s.halted, s.faultCause.toNat, s.faultInfo.toNat, s.pc.toNat)

/-! ## Well-formed terms -/

/-- R74, R76: the words 00E0 and 00EE are CLS and RET, so no HALT has them; every other 0nnn is a HALT. -/
theorem test_wellFormed_refuses : (Instr.halt 0x0E0).wellFormed = false ∧ (Instr.halt 0x0EE).wellFormed = false ∧
    (Instr.halt 0x0E1).wellFormed = true ∧ (Instr.halt 0x000).wellFormed = true := by decide

/-! ## Decoding: one word for each row, written out from R75 -/

/-- Rows 1 to 10. -/
theorem test_decode_low :
    decodeWord 0x00E0 = .ok .cls ∧ decodeWord 0x00EE = .ok .ret ∧ decodeWord 0x0123 = .ok (.halt 0x123) ∧
    decodeWord 0x1FFD = .ok (.jp 0xFFD) ∧ decodeWord 0x2300 = .ok (.call 0x300) ∧
    decodeWord 0x3335 = .ok (.seVxKk 3 0x35) ∧ decodeWord 0x4A0F = .ok (.sneVxKk 0xA 0x0F) ∧
    decodeWord 0x5120 = .ok (.seVxVy 1 2) ∧ decodeWord 0x6A2C = .ok (.ldVxKk 0xA 0x2C) ∧
    decodeWord 0x71FF = .ok (.addVxKk 1 0xFF) := by decide

/-- Rows 11 to 20. -/
theorem test_decode_alu :
    decodeWord 0x8120 = .ok (.ldVxVy 1 2) ∧ decodeWord 0x8121 = .ok (.orVxVy 1 2) ∧
    decodeWord 0x8122 = .ok (.andVxVy 1 2) ∧ decodeWord 0x8123 = .ok (.xorVxVy 1 2) ∧
    decodeWord 0x8F14 = .ok (.addVxVy 0xF 1) ∧ decodeWord 0x81F5 = .ok (.subVxVy 1 0xF) ∧
    decodeWord 0x8236 = .ok (.shrVx 2 3) ∧ decodeWord 0x8127 = .ok (.subnVxVy 1 2) ∧
    decodeWord 0x823E = .ok (.shlVx 2 3) ∧ decodeWord 0x9120 = .ok (.sneVxVy 1 2) := by decide

/-- Rows 21 to 35. -/
theorem test_decode_high :
    decodeWord 0xAFFF = .ok (.ldINnn 0xFFF) ∧ decodeWord 0xB300 = .ok (.jpV0Nnn 0x300) ∧
    decodeWord 0xC30F = .ok (.rndVxKk 3 0x0F) ∧ decodeWord 0xD012 = .ok (.drwVxVyN 0 1 2) ∧
    decodeWord 0xE29E = .ok (.skpVx 2) ∧ decodeWord 0xE2A1 = .ok (.sknpVx 2) ∧
    decodeWord 0xF407 = .ok (.ldVxDt 4) ∧ decodeWord 0xF30A = .ok (.ldVxK 3) ∧
    decodeWord 0xF015 = .ok (.ldDtVx 0) ∧ decodeWord 0xF118 = .ok (.ldStVx 1) ∧
    decodeWord 0xF11E = .ok (.addIVx 1) ∧ decodeWord 0xF429 = .ok (.ldFVx 4) ∧
    decodeWord 0xF333 = .ok (.ldBVx 3) ∧ decodeWord 0xF255 = .ok (.ldMemVx 2) ∧
    decodeWord 0xF365 = .ok (.ldVxMem 3) := by decide

/-- TE10 to TE12: reserved words of every family that has them (R77). -/
theorem test_decode_reserved :
    ([0xF090, 0x5121, 0x8128, 0x812F, 0x9121, 0xE19F, 0xE100, 0xF100, 0xF1FF].all fun w =>
      match decodeWord w with | .ok _ => false | .error _ => true) = true := by decide

/-- R53: the first byte of memory is the high byte of the word; TE1. -/
theorem test_decodeBytes : decodeBytes [0x12, 0x34, 0x56] = .ok (.jp 0x234, [0x56]) ∧
    decodeBytes [0x12] = .error .truncated := by decide

/-- The table's own numbering, and the first instruction after reset (R201: at `pc = 0`). -/
theorem test_tableWord : decodeTableWord 16 0x8274 = some (.addVxVy 2 7) ∧ (runWord 0x6A2C State.reset).pc = 2 := by decide

/-! ## The engine -/

/-- TE1: the word is big-endian. -/
theorem test_TE1 : (stateAfter launch (step ((launch.writeByte 0x200 0x12).writeByte 0x201 0x34))).pc = 0x236 := by decide

/-- TE2, TE3, TE4: the last fetch that succeeds, and the two that fail. -/
theorem test_TE2_TE3_TE4 :
    (runWord 0x6001 { launch with pc := 0xFFE }).pc = 0x1000 ∧
    faultRecord (stateAfter launch (step { launch with pc := 0x1000 })) = (true, 1, 0x1000, 0x1000) ∧
    faultRecord (stateAfter launch (step { launch with pc := 0xFFF })) = (true, 1, 0xFFF, 0xFFF) := by decide

/-- TE5: an odd `pc` is legal. -/
theorem test_TE5 : (runWord 0x6107 { launch with pc := 0x201 }).getV 1 = 7 ∧
    (runWord 0x6107 { launch with pc := 0x201 }).pc = 0x203 := by decide

/-- TE6: a halted core does not change. -/
theorem test_TE6 : stateAfter State.reset (stepWith ⟨0, true⟩ { launch with halted := true, dt := 9, pc := 0x20E }) =
    { launch with halted := true, dt := 9, pc := 0x20E } := by decide

/-- TE7, TE8, TE9: the timer phase. -/
theorem test_TE7_TE8_TE9 :
    ((runWord 0x6105 { launchTick with dt := 1 }).dt = 0 ∧ (runWord 0x6105 { launchTick with dt := 1 }).st = 0) ∧
    ((runWord 0x6105 { launchTick with dt := 7, st := 200 }).dt = 6 ∧
      (runWord 0x6105 { launchTick with dt := 7, st := 200 }).st = 199) ∧
    (runWord 0x6105 { launch with dt := 7, st := 200 }).dt = 7 := by decide

/-- TE10, TE11, TE13: reserved words, and no timer phase in a faulting step. -/
theorem test_TE10_TE13 :
    faultRecord (runWord 0xF090 launch) = (true, 2, 0xF090, 0x200) ∧
    faultRecord (runWord 0x5121 { launchTick with dt := 5 }) = (true, 2, 0x5121, 0x200) ∧
    (runWord 0x5121 { launchTick with dt := 5 }).dt = 5 := by decide

/-! ## Control flow -/

/-- TC1, TC2, TC3: HALT advances, is no fault, and its step has a timer phase. -/
theorem test_halt : faultRecord (runWord 0x0FFF launch) = (true, 0, 0, 0x202) ∧
    faultRecord (runWord 0x0000 { launchTick with dt := 3 }) = (true, 0, 0, 0x202) ∧
    (runWord 0x0000 { launchTick with dt := 3 }).dt = 2 := by decide

/-- TC4, TC6, TC8. -/
theorem test_jp : (runWord 0x11FE launch).pc = 0x200 ∧ (runWord 0x1301 launch).pc = 0x303 ∧
    (runWord 0x1FFF launch).pc = 0x1001 := by decide

/-- TC10: the deepest legal call. -/
theorem test_call_deepest : (runWord 0x2300 { launch with sp := 14 }).sp = 15 ∧
    (runWord 0x2300 { launch with sp := 14 }).slot 15 = 0x200 ∧ (runWord 0x2300 { launch with sp := 14 }).pc = 0x302 := by
  decide

/-- TC11: the overflow. -/
theorem test_call_overflow : faultRecord (runWord 0x2300 { launch with sp := 15 }) = (true, 3, 0x2300, 0x200) ∧
    (runWord 0x2300 { launch with sp := 15 }).sp = 15 := by decide

/-- TC12: the underflow. -/
theorem test_ret_underflow : faultRecord (runWord 0x00EE launch) = (true, 4, 0x00EE, 0x200) ∧
    (runWord 0x00EE launch).sp = 0 := by decide

/-- TC13: the slot keeps its value. -/
theorem test_ret : let s := { launch with sp := 2, stack := launch.stack.set 2 0x0456 }
    (runWord 0x00EE s).sp = 1 ∧ (runWord 0x00EE s).pc = 0x458 ∧ (runWord 0x00EE s).slot 2 = 0x0456 := by decide

/-- S5. -/
theorem test_se_literal : (runWord 0x3333 (withV launch [(3, 0x33)])).pc = 0x204 ∧
    (runWord 0x3335 (withV launch [(3, 0x33)])).pc = 0x202 := by decide

/-- TC23: a skip past the top of memory. -/
theorem test_se_past_top : (runWord 0x3000 { launch with pc := 0xFFC }).pc = 0x1000 := by decide

/-- TC14, TC15. -/
theorem test_sne_literal : (runWord 0x4333 (withV launch [(3, 0x33)])).pc = 0x202 ∧
    (runWord 0x4335 (withV launch [(3, 0x33)])).pc = 0x204 := by decide

/-- TC16, TC17, TC18. -/
theorem test_se_register : (runWord 0x5120 (withV launch [(1, 7), (2, 7)])).pc = 0x204 ∧
    (runWord 0x5120 (withV launch [(1, 7), (2, 8)])).pc = 0x202 ∧ (runWord 0x5440 launch).pc = 0x204 := by decide

/-- TC19, TC20. -/
theorem test_sne_register : (runWord 0x9120 (withV launch [(1, 7), (2, 8)])).pc = 0x204 ∧
    (runWord 0x9440 launch).pc = 0x202 := by decide

/-- TC21, TC22: the sum is not reduced to 12 bits. -/
theorem test_jp_offset : (runWord 0xB300 (withV launch [(0, 0x04)])).pc = 0x306 ∧
    (runWord 0xBFFF (withV launch [(0, 0xFF)])).pc = 0x1100 := by decide

/-! ## Registers, arithmetic, logic, shifts, random -/

/-- TA1. -/
theorem test_ld_literal : (runWord 0x6A2C launch).getV 10 = 0x2C ∧ (runWord 0x6A2C launch).pc = 0x202 := by decide

/-- TA2, TA4: no flag, and VF as a plain destination. -/
theorem test_add_literal : (runWord 0x7102 (withV launch [(1, 0xFF)])).getV 1 = 0x01 ∧
    (runWord 0x7102 (withV launch [(1, 0xFF)])).getV 15 = 0 ∧
    (runWord 0x7F05 (withV launch [(15, 0x10)])).getV 15 = 0x15 := by decide

/-- TA5. -/
theorem test_ld_register : (runWord 0x8120 (withV launch [(2, 9)])).getV 1 = 9 := by decide

/-- TA6: VF is not written. -/
theorem test_or : (runWord 0x8121 (withV launch [(1, 0x0F), (2, 0xF0), (15, 1)])).getV 1 = 0xFF ∧
    (runWord 0x8121 (withV launch [(1, 0x0F), (2, 0xF0), (15, 1)])).getV 15 = 1 := by decide

/-- TA7. -/
theorem test_and : (runWord 0x8122 (withV launch [(1, 0x3C), (2, 0x0F)])).getV 1 = 0x0C := by decide

/-- TA8, TA9. -/
theorem test_xor : (runWord 0x8123 (withV launch [(1, 0xFF), (2, 0x0F)])).getV 1 = 0xF0 ∧
    (runWord 0x8113 (withV launch [(1, 0x5A)])).getV 1 = 0x00 := by decide

/-- TA10, TA11. -/
theorem test_add_carry : (runWord 0x8124 (withV launch [(1, 0xFF), (2, 0x01)])).getV 1 = 0x00 ∧
    (runWord 0x8124 (withV launch [(1, 0xFF), (2, 0x01)])).getV 15 = 1 ∧
    (runWord 0x8124 (withV launch [(1, 0x7F), (2, 0x80), (15, 1)])).getV 15 = 0 := by decide

/-- TA13, TA14: VF as destination, VF as source. -/
theorem test_add_alias : (runWord 0x8F14 (withV launch [(15, 0xFF), (1, 0x03)])).getV 15 = 0x02 ∧
    (runWord 0x81F4 (withV launch [(1, 0x10), (15, 0x05)])).getV 1 = 0x15 := by decide

/-- TA16, TA17: a borrow, and equality. -/
theorem test_sub : (runWord 0x8125 (withV launch [(1, 3), (2, 5)])).getV 1 = 0xFE ∧
    (runWord 0x8125 (withV launch [(1, 5), (2, 3)])).getV 15 = 1 ∧
    (runWord 0x8125 (withV launch [(1, 5), (2, 5), (15, 1)])).getV 15 = 0 := by decide

/-- TA18, TA19. -/
theorem test_sub_alias : (runWord 0x8F15 (withV launch [(15, 9), (1, 4)])).getV 15 = 5 ∧
    (runWord 0x81F5 (withV launch [(1, 9), (15, 4)])).getV 1 = 5 ∧
    (runWord 0x81F5 (withV launch [(1, 9), (15, 4)])).getV 15 = 1 := by decide

/-- TA20, TA21: `y` is ignored. -/
theorem test_shr : (runWord 0x8236 (withV launch [(2, 0x83), (3, 0xFF)])).getV 2 = 0x41 ∧
    (runWord 0x8236 (withV launch [(2, 0x83), (3, 0xFF)])).getV 15 = 1 ∧
    (runWord 0x8206 (withV launch [(2, 0x02), (15, 1)])).getV 15 = 0 := by decide

/-- TA23. -/
theorem test_shr_alias : (runWord 0x8F06 (withV launch [(15, 0x05)])).getV 15 = 0x02 := by decide

/-- TA24, TA25: `Vx - Vy`, not `Vy - Vx`. -/
theorem test_subn : (runWord 0x8127 (withV launch [(1, 3), (2, 5)])).getV 1 = 0xFE ∧
    (runWord 0x8127 (withV launch [(1, 3), (2, 5)])).getV 15 = 1 ∧
    (runWord 0x8127 (withV launch [(1, 5), (2, 3), (15, 1)])).getV 15 = 0 := by decide

/-- TA26: equality. -/
theorem test_subn_equal : (runWord 0x8127 (withV launch [(1, 5), (2, 5), (15, 1)])).getV 1 = 0 ∧
    (runWord 0x8127 (withV launch [(1, 5), (2, 5), (15, 1)])).getV 15 = 0 := by decide

/-- TA27, TA28. -/
theorem test_shl : (runWord 0x820E (withV launch [(2, 0x40), (15, 1)])).getV 15 = 0 ∧
    (runWord 0x823E (withV launch [(2, 0x80), (3, 0x11)])).getV 2 = 0x00 ∧
    (runWord 0x823E (withV launch [(2, 0x80), (3, 0x11)])).getV 15 = 1 := by decide

/-- TA30. -/
theorem test_shl_alias : (runWord 0x8F0E (withV launch [(15, 0x81)])).getV 15 = 0x02 := by decide

/-- TA31, TA32, TA33. -/
theorem test_rnd : (runWord 0xC30F { launch with inputs := [⟨0xA7, false⟩] }).getV 3 = 0x07 ∧
    (runWord 0xC300 { launch with inputs := [⟨0xA7, false⟩] }).getV 3 = 0x00 ∧
    (runWord 0xC3FF { launch with inputs := [⟨0xA7, false⟩] }).getV 3 = 0xA7 := by decide

/-! ## Index register and memory -/

/-- TM1, TM2. -/
theorem test_ld_index : (runWord 0xA300 { launch with index := 0xFFFF }).index = 0x0300 ∧
    (runWord 0xAFFF launch).index = 0x0FFF := by decide

/-- TM3, TM4. -/
theorem test_add_index : (runWord 0xF11E (withV { launch with index := 0x0FFF } [(1, 2)])).index = 0x1001 ∧
    (runWord 0xF11E (withV { launch with index := 0xFFFF } [(1, 2)])).index = 0x0001 := by decide

/-- TM5, TM6: no masking. -/
theorem test_ld_font : (runWord 0xF429 (withV launch [(4, 0x0A)])).index = 0x0032 ∧
    (runWord 0xF429 (withV launch [(4, 0xFF)])).index = 0x04FB := by decide

/-- TM8, TM10: the highest legal base. -/
theorem test_ld_bcd : let t := runWord 0xF333 (withV { launch with index := 0xFFD } [(3, 255)])
    t.readByte 0xFFD = 2 ∧ t.readByte 0xFFE = 5 ∧ t.readByte 0xFFF = 5 ∧ t.pc = 0x202 := by decide

/-- TM11: nothing is written. -/
theorem test_ld_bcd_fault : let t := runWord 0xF333 (withV { launch with index := 0xFFE } [(3, 9)])
    faultRecord t = (true, 5, 0xF333, 0x200) ∧ t.readByte 0xFFE = 0 ∧ t.readByte 0xFFF = 0 := by decide

/-- TM12: `V[2]` is not stored, `I` is unchanged. -/
theorem test_store_registers : let t := runWord 0xF255 (withV { launch with index := 0x400 } [(0, 0x11), (1, 0x22), (2, 0x33)])
    t.readByte 0x400 = 0x11 ∧ t.readByte 0x401 = 0x22 ∧ t.readByte 0x402 = 0 ∧ t.index = 0x400 := by decide

/-- TM14, TM16: no byte, so no fault; and one byte too many. -/
theorem test_store_registers_bounds : faultRecord (runWord 0xF055 { launch with index := 0xFFFF }) = (false, 0, 0, 0x202) ∧
    faultRecord (runWord 0xFF55 { launch with index := 0xFF2 }) = (true, 5, 0xFF55, 0x200) := by decide

/-- TM17: `V[3]` is not loaded. -/
theorem test_load_registers :
    let s := (withV { launch with index := 0x300 } [(3, 0x80)]).writeBytes 0x300 [1, 2, 8, 7]
    (runWord 0xF365 s).getV 0 = 1 ∧ (runWord 0xF365 s).getV 1 = 2 ∧ (runWord 0xF365 s).getV 2 = 8 ∧
    (runWord 0xF365 s).getV 3 = 0x80 ∧ (runWord 0xF365 s).index = 0x300 := by decide

/-- TM19. -/
theorem test_load_registers_fault : faultRecord (runWord 0xF165 { launch with index := 0x1000 }) = (true, 5, 0xF165, 0x200) := by
  decide

/-! ## Display -/

/-- The state before TD3. -/
def spriteState : State :=
  (withV { launch with index := 0x300 } [(0, 62), (1, 31)]).writeBytes 0x300 [0xC0, 0xF0]

/-- TD14: CLS leaves `needs_redraw` and VF. -/
theorem test_cls : let t := runWord 0x00E0 (withV { launch with display := launch.display.set 40 7 } [(15, 1)])
    t.display = Vector.replicate 64 0 ∧ t.needsRedraw = false ∧ t.getV 15 = 1 := by decide

/-- TD3: the wrap in both directions, as row masks. -/
theorem test_drw_wraps : let t := runWord 0xD012 spriteState
    t.display[31] = 0x00000000000000030000000000000000 ∧ t.display[0] = 0xC0000000000000030000000000000000 ∧
    t.getV 15 = 0 ∧ t.needsRedraw = true := by decide

/-- TD6, TD10: the collision, and a sprite past the top of memory. -/
theorem test_drw_collides :
    let s := { launch with index := 0x300, display := launch.display.set 0 (1#128 <<< 127) }.writeByte 0x300 0xC0
    (runWord 0xD011 s).display[0] = 1#128 <<< 126 ∧ (runWord 0xD011 s).getV 15 = 1 ∧
    faultRecord (runWord 0xD012 { launch with index := 0xFFF }) = (true, 5, 0xD012, 0x200) := by decide

/-! ## Keys and timers -/

/-- Key `k` held. -/
def holding (k : Nibble) : State := launch.setKey k true

/-- TK1, TK2, TK5. -/
theorem test_skp : (runWord 0xE29E (withV (holding 10) [(2, 0x0A)])).pc = 0x204 ∧
    (runWord 0xE29E (withV launch [(2, 0x0A)])).pc = 0x202 ∧
    (runWord 0xE29E (withV (holding 15) [(2, 0x0F)])).pc = 0x204 := by decide

/-- TK6. -/
theorem test_skp_fault : faultRecord (runWord 0xE29E (withV launch [(2, 0x10)])) = (true, 6, 0xE29E, 0x200) := by decide

/-- TK3, TK4. -/
theorem test_sknp : (runWord 0xE2A1 (withV (holding 10) [(2, 0x0A)])).pc = 0x202 ∧
    (runWord 0xE2A1 (withV launch [(2, 0x0A)])).pc = 0x204 := by decide

/-- TK7. -/
theorem test_sknp_fault : faultRecord (runWord 0xE2A1 (withV launch [(2, 0xFF)])) = (true, 6, 0xE2A1, 0x200) := by decide

/-- The default machine with the other policy for LD Vx,K. -/
def pollLaunch : State := { launchTick with config := { Config.default with waitKeyPolicy := .poll }, dt := 4 }

/-- TK8: the default policy. -/
theorem test_waitKey_fault : faultRecord (runWord 0xF30A launch) = (true, 7, 0xF30A, 0x200) := by decide

/-- TK9, TK10: the least key held; none held, where the timers go on. -/
theorem test_waitKey_poll :
    (runWord 0xF50A ((pollLaunch.setKey 9 true).setKey 3 true)).getV 5 = 3 ∧
    (runWord 0xF50A ((pollLaunch.setKey 9 true).setKey 3 true)).pc = 0x202 ∧
    (runWord 0xF50A pollLaunch).pc = 0x200 ∧ (runWord 0xF50A pollLaunch).dt = 3 := by decide

/-- TK12: read, then decremented. -/
theorem test_ld_from_dt : (runWord 0xF407 { launchTick with dt := 5 }).getV 4 = 5 ∧
    (runWord 0xF407 { launchTick with dt := 5 }).dt = 4 := by decide

/-- TK13, TK14: written, then decremented. -/
theorem test_ld_to_dt : (runWord 0xF015 (withV launch [(0, 3)])).dt = 3 ∧
    (runWord 0xF015 (withV launchTick [(0, 3)])).dt = 2 := by decide

/-- TK16, TK17. -/
theorem test_ld_to_st : (runWord 0xF118 (withV launch [(1, 0x20)])).st = 0x20 ∧
    (runWord 0xF118 (withV launchTick [(1, 0x01)])).st = 0 := by decide

/-! ## The host's transactions -/

/-- TH3: an image of two bytes. -/
theorem test_TH3 : let t := stateAfter State.reset (State.reset.load 0x600 [0x00, 0xE0])
    t.readByte 0x600 = 0x00 ∧ t.readByte 0x601 = 0xE0 ∧ t.pc = 0x600 := by decide

/-- TH4: the step after a load at the last byte. -/
theorem test_TH4 : faultRecord (afterAll State.reset [.load 0xFFF [0x12], .step ⟨0, false⟩]) = (true, 1, 0xFFF, 0xFFF) := by
  decide

/-- TH5: a step with nothing loaded; the default font's first word. -/
theorem test_TH5 : faultRecord (afterAll State.reset [.step ⟨0, false⟩]) = (true, 2, 0xF090, 0) := by decide

/-- TH6: `reset()` of a faulted core. -/
theorem test_TH6 :
    ({ (withV launch [(1, 9)]).writeByte 0x200 0x21 with halted := true, faultCause := 3 } : State).hostReset =
      State.reset := by decide

/-- TH7: `load` does not wake a halted core. -/
theorem test_TH7 : let t := afterAll { launch with halted := true } [.load 0x200 [0x60, 0x01], .step ⟨0, false⟩]
    t.readByte 0x200 = 0x60 ∧ t.pc = 0x200 ∧ t.halted = true ∧ t.getV 0 = 0 := by decide

/-- TH10: an empty image runs the zero word. -/
theorem test_TH10 : faultRecord (afterAll State.reset [.load 0x200 [], .step ⟨0, false⟩]) = (true, 0, 0, 0x202) := by decide

/-! ## Witnesses: states and operands that meet a statement's hypotheses, one for each clause, at the edges of its range -/

/-- `launch` with the word `w` in memory at `pc`. -/
def placed (w : Word) : State := launch.withFetchWord 16 w.toNat

/-- DecodeOfEncodeIsIdentity, EncodeOfDecodeIsIdentity: words next to the two that are no HALT, and the last row. -/
theorem test_witness_Decode : (Instr.halt 0x0EF).wellFormed = true ∧ decodeWord (encode (.halt 0x0EF)) = .ok (.halt 0x0EF) ∧
    decodeWord 0xFF65 = .ok (.ldVxMem 15) := by decide

/-- ReservedWordsAreExactlyTheTable: a word on each side of every line of the table. -/
theorem test_witness_ReservedWords :
    ([packXyn 0x5 15 15 1, packXyn 0x8 0 0 8, packXyn 0x8 0 0 0xD, packXyn 0x8 0 0 0xF, packXyn 0x9 0 0 15,
      packXyn 0xE 0 0x9 0xD, packXyn 0xE 0 0xA 0xE, packXyn 0xF 0 0x0 0x8, packXyn 0xF 0 0x6 0x6].all fun w =>
        match decodeWord w with | .ok _ => false | .error _ => true) = true ∧
    ([packXyn 0x5 15 15 0, packXyn 0x8 0 0 7, packXyn 0x8 0 0 0xE, packXyn 0x9 0 0 0, packXyn 0xE 0 0x9 0xE,
      packXyn 0xE 0 0xA 0x1, packXyn 0xF 0 0x0 0x7, packXyn 0xF 0 0x6 0x5, packXyn 0x0 0 0 1].all fun w =>
        match decodeWord w with | .ok _ => true | .error _ => false) = true := by decide

/-- ReservedWordsAreExactlyTheTable, its second clause. -/
theorem test_witness_ReservedWordStep : ∃ (s : State) (ir : Word) (e : DecodeError),
    s.halted = false ∧ s.fetch = some ir ∧ decodeWord ir = .error e :=
  ⟨placed 0x5121, 0x5121, .unknownOpcode 0x5121, by decide, by decide, by decide⟩

/-- StepRunsTheDecodedInstruction, at the highest `pc` that can be fetched from. -/
theorem test_witness_StepRuns : ∃ (s : State) (i : Instr), s.halted = false ∧ s.pc.toNat + 1 < 4096 ∧
    decodeWord (wordOfBytes (s.readByte s.pc.toNat) (s.readByte (s.pc.toNat + 1))) = .ok i :=
  ⟨{ launch with pc := 4094 }, .halt 0, by decide, by decide, by decide⟩

/-- FetchOutOfRangeFaults at 4095; FetchIsBigEndian at 4094; HaltedStepChangesNothing. -/
theorem test_witness_Fetch : (4096 ≤ ({ launch with pc := 4095 } : State).pc.toNat + 1 ∧
      ({ launch with pc := 4095 } : State).halted = false) ∧
    ({ launch with pc := 4094 } : State).pc.toNat + 1 < 4096 ∧ ({ launch with halted := true } : State).halted = true := by
  decide

/-- FaultsArePrecise: a fault of the fetch, and one of an instruction. -/
theorem test_witness_FaultsArePrecise :
    (∃ s t : State, s.halted = false ∧ s.faultCause = 0 ∧ step s = .next t ∧ t.faultCause ≠ 0 ∧ s.fetch = none) ∧
    (∃ s t : State, s.halted = false ∧ s.faultCause = 0 ∧ step s = .next t ∧ t.faultCause ≠ 0 ∧ s.fetch ≠ none) :=
  ⟨⟨{ launch with pc := 4095 }, _, by decide, by decide, rfl, by decide, by decide⟩,
    ⟨placed 0x00EE, _, by decide, by decide, rfl, by decide, by decide⟩⟩

/-- TimersAfterEveryInstruction, InstructionsWriteOnlyTheirColumn: an instruction that faults and one that does not. -/
theorem test_witness_Exec : (∃ t : State, exec .ret launch = .next t ∧ t.halted = true) ∧
    (∃ t : State, exec (.ldDtVx 0) (withV launchTick [(0, 3)]) = .next t ∧ t.dt = 2) :=
  ⟨⟨_, rfl, by decide⟩, ⟨_, rfl, by decide⟩⟩

/-- NoInstructionReadsSoundTimer, with an instruction that writes `st`. -/
theorem test_witness_SoundTimer : ∃ t u : State, exec (.ldStVx 1) launch = .next t ∧
    exec (.ldStVx 1) { launch with st := 9 } = .next u := ⟨_, _, rfl, rfl⟩

/-- OnlyRndReadsRand, with two different values. -/
theorem test_witness_Rand : (∀ x kk, Instr.ldVxKk 3 0x11 ≠ .rndVxKk x kk) ∧
    ∃ t u : State, exec (.ldVxKk 3 0x11) { launch with inputs := [⟨0xA7, true⟩] } = .next t ∧
      exec (.ldVxKk 3 0x11) { launch with inputs := [⟨0, true⟩] } = .next u :=
  ⟨fun _ _ h => Instr.noConfusion h, _, _, rfl, rfl⟩

/-- EnginePhasesRefineStep: a halted core, a core that halts, and a core that goes on. -/
theorem test_witness_EnginePhases : (∃ t : State, step { launch with halted := true } = .next t) ∧
    (∃ t : State, step (placed 0x0000) = .next t ∧ t.halted = true) ∧
    (∃ t : State, step (placed 0x6A2C) = .next t ∧ t.halted = false) :=
  ⟨⟨_, rfl⟩, ⟨_, rfl, by decide⟩, ⟨_, rfl, by decide⟩⟩

/-- A state with the invariant that is not the reset state: a program byte in memory, one call deep, `pc` at its bound. -/
def deepState : State :=
  { State.reset with mem := [(0x300, 7)], pc := 0x1100, stack := State.reset.stack.set 1 4094, sp := 1, dt := 9, st := 9 }

/-- EveryStepKeepsInvariant, EveryTransactionKeepsInvariant: the invariant holds of it. -/
theorem test_witness_Inv : deepState.Inv ∧ ∃ t : State, step deepState = .next t ∧ t.halted = true :=
  ⟨⟨by decide, by decide, by decide, by decide, by decide, by decide, by decide, by decide,
    fun _ r c _ => Display.pixel_clear r c⟩, ⟨_, rfl, by decide⟩⟩

/-- ReachableStatesMeetBounds: a state reached by a load and a step. -/
theorem test_witness_Reachable : ∃ s : State, Reachable s ∧ s.pc = 0x202 ∧ s.sp = 1 :=
  ⟨afterAll State.reset [.load 0x200 [0x22, 0x00], .step ⟨0, false⟩], ⟨Config.default, _, rfl⟩, by decide, by decide⟩

/-- HaltStopsProperly: the words next to CLS and RET. -/
theorem test_witness_Halt : (0x0E1 : Addr12) ≠ 0x0E0 ∧ (0x0E1 : Addr12) ≠ 0x0EE ∧
    decodeWord (packNnn 0x0 0x0E1) = .ok (.halt 0x0E1) := by decide

/-- RetReturns at depths 0 and 15, CallPushesItsOwnAddress at depths 14 and 15, JpLandsTwoPastTarget at 0xFFD. -/
theorem test_witness_Stack : launch.sp.toNat = 0 ∧ ({ launch with sp := 15 } : State).sp.toNat ≠ 0 ∧
    ({ launch with sp := 15 } : State).sp.toNat = 15 ∧ ({ launch with sp := 14 } : State).sp.toNat ≠ 15 ∧
    0xFFD ≤ (0xFFD : Addr12).toNat := by decide

/-- SeVxVySkipsOnEqual, SneVxVySkipsOnUnequal: the reserved last nibbles. -/
theorem test_witness_SkipReserved : (1 : Nibble) ≠ 0 ∧
    decodeWord (packXyn 0x5 1 2 1) = .error (.unknownOpcode (packXyn 0x5 1 2 1)) ∧
    decodeWord (packXyn 0x9 1 2 15) = .error (.unknownOpcode (packXyn 0x9 1 2 15)) := by decide

/-- RetUndoesCall (S4). -/
theorem test_witness_RetUndoesCall : ∃ s t u : State, s.sp.toNat ≠ 15 ∧ exec (.call 0x2FE) s = .next t ∧
    exec .ret t = .next u ∧ u.pc = 0x202 ∧ u.sp = 0 :=
  ⟨{ launch with inputs := [⟨0, false⟩, ⟨0, false⟩] }, _, _, by decide, rfl, rfl, by decide, by decide⟩

/-- The results and frames of the register instructions: VF as destination and not, another register. -/
theorem test_witness_Registers : (14 : Nibble) ≠ 15 ∧ (0 : Nibble) ≠ 14 ∧ (0 : Nibble) ≠ 15 ∧ ¬ (15 : Nibble) ≠ 15 ∧ 7 < 8 := by
  decide

/-- LdBVxStoresDecimalDigits at `I = 0xFFE` and `0xFFD`. -/
theorem test_witness_LdB : ({ launch with index := 0xFFE } : State).index.toNat + 2 > 4095 ∧
    ¬ ({ launch with index := 0xFFD } : State).index.toNat + 2 > 4095 := by decide

/-- LdMemVxStoresRegistersBelowX, LdVxMemLoadsRegistersBelowX: `x = 15` at 0xFF2 and 0xFF1, and `x = 0` anywhere. -/
theorem test_witness_BlockTransfer :
    (0 < (15 : Nibble).toNat ∧ ({ launch with index := 0xFF2 } : State).index.toNat + (15 : Nibble).toNat - 1 > 4095) ∧
    ¬ ({ launch with index := 0xFF1 } : State).index.toNat + (15 : Nibble).toNat - 1 > 4095 ∧
    ¬ 0 < (0 : Nibble).toNat ∧ (14 : Nibble).toNat < (15 : Nibble).toNat := by decide

/-- StoreIsSeenByNextFetch, at the highest legal base. -/
theorem test_witness_StoreIsSeen : ∃ s t : State, 2 ≤ (2 : Nibble).toNat ∧ s.index.toNat + (2 : Nibble).toNat - 1 ≤ 4095 ∧
    exec (.ldMemVx 2) s = .next t :=
  ⟨{ launch with index := 0xFFE }, _, by decide, by decide, rfl⟩

/-- DrwTurnsOverCoveredPixels: past the top of memory and not; a covered pixel that is lit, and one that is not covered. -/
theorem test_witness_Drw :
    (0 < (2 : Nibble).toNat ∧ ({ launch with index := 0xFFF } : State).index.toNat + (2 : Nibble).toNat - 1 > 4095) ∧
    ¬ spriteState.index.toNat + (2 : Nibble).toNat - 1 > 4095 ∧
    (∃ r c : Nat, covers spriteState 62 31 2 r c) ∧ (∃ r c : Nat, ¬ covers spriteState 62 31 2 r c) :=
  ⟨by decide, by decide, ⟨0, 1, 1, 3, by decide⟩, ⟨5, 5, fun ⟨i, _, hi, _, _, hr, _⟩ => by
    have hh : spriteState.frameHeight = 32 := by decide
    rw [hh] at hr; omega⟩⟩

/-- DrwTurnsOverCoveredPixels: a sprite on a lit pixel, so that VF becomes 1. -/
theorem test_witness_DrwCollides : ∃ (s : State) (r c : Nat), covers s 62 31 2 r c ∧ s.display.pixel r c = true :=
  ⟨{ spriteState with display := launch.display.set 0 (1#128 <<< 126) }, 0, 1, ⟨1, 3, by decide⟩, by decide⟩

/-- DrwTurnsOverCoveredPixels: a sprite on a clear display, so that VF stays. -/
theorem test_witness_DrwClean : ¬ ∃ r c : Nat, covers spriteState 62 31 2 r c ∧ spriteState.display.pixel r c = true := by
  rintro ⟨r, c, -, h⟩
  rw [show spriteState.display = Vector.replicate 64 0#128 from rfl, Display.pixel_clear] at h
  cases h

/-- DrawingTwiceRestoresDisplay (TD3, TD5). -/
theorem test_witness_DrawingTwice : ∃ s t u : State, (0 : Nibble) ≠ 15 ∧ (1 : Nibble) ≠ 15 ∧
    ((2 : Nibble).toNat = 0 ∨ s.index.toNat + (2 : Nibble).toNat - 1 ≤ 4095) ∧ exec (.drwVxVyN 0 1 2) s = .next t ∧
    exec (.drwVxVyN 0 1 2) t = .next u ∧ (∃ i j : Nat, i < (2 : Nibble).toNat ∧ j < 8 ∧ spriteBit s i j = true) ∧
    u.getV 15 = 1 ∧ u.display = s.display :=
  ⟨{ spriteState with inputs := [⟨0, false⟩, ⟨0, false⟩] }, _, _, by decide, by decide, by decide, rfl, rfl,
    ⟨0, 0, by decide⟩, by decide, by decide⟩

/-- SkpSkipsWhenKeyHeld, SknpSkipsWhenKeyNotHeld: `Vx = 16` and `Vx = 15`, with its key. -/
theorem test_witness_Key : ((withV launch [(2, 16)]).getV 2).toNat > 15 ∧ ¬ ((withV launch [(2, 15)]).getV 2).toNat > 15 ∧
    (15 : Nibble).toNat = ((withV launch [(2, 15)]).getV 2).toNat := by decide

/-- LdVxKFaultsUnderFaultPolicy, LdVxKPollsUnderPollPolicy: the policies, the least key held, and no key held. -/
theorem test_witness_WaitKey : launch.config.waitKeyPolicy = .fault ∧ pollLaunch.config.waitKeyPolicy = .poll ∧
    ((pollLaunch.setKey 9 true).setKey 3 true).keyHeld 3 = true ∧
    (∀ j : Nibble, j.toNat < (3 : Nibble).toNat → ((pollLaunch.setKey 9 true).setKey 3 true).keyHeld j = false) ∧
    (∀ k : Nibble, pollLaunch.keyHeld k = false) := by decide

/-- LoadCopiesOrRefuses (TH1, TH2): 3584 bytes at 0x200 fit, 3585 do not. -/
theorem test_witness_Load : ¬ (0x200 : Addr12).toNat + (List.replicate 3584 (0 : Byte)).length > 4096 ∧
    (0x200 : Addr12).toNat + (List.replicate 3585 (0 : Byte)).length > 4096 := by
  rw [List.length_replicate, List.length_replicate]; decide

/-- ResetRestoresConstructionState: the ends of its two ranges of addresses. -/
theorem test_witness_Reset : 79 < 80 ∧ 80 ≤ 80 ∧ 4095 ≤ 4095 ∧ State.reset.readByte 79 = 0x80 ∧ State.reset.readByte 80 = 0 := by
  decide

/-- SetKeyAndClearRedrawWriteOneBit (TH8, TH9), with another key. -/
theorem test_witness_SetKey : (3 : Nibble) ≠ 10 ∧ (State.reset.setKey 10 true).keyHeld 10 = true ∧
    (State.reset.setKey 10 true).keyHeld 3 = false ∧
    ({ State.reset with needsRedraw := true } : State).clearRedraw = State.reset := by decide

/-- OnlyResetLeavesHalted: a halted core and each kind of transaction. -/
theorem test_witness_OnlyReset : ({ launch with halted := true } : State).halted = true ∧
    Transaction.load 0x200 [0x60, 0x01] ≠ .reset ∧ Transaction.step ⟨0, true⟩ ≠ .reset ∧
    Transaction.run [⟨0, true⟩] ≠ .reset ∧ Transaction.read ≠ .reset := by decide

end Sys2Proof.Tests
end

section
/-! PROOFS. Family 41_control_flow: the skips SE Vx,Vy and SNE Vx,Vy (spec/41_control_flow.md R106, R107). First the two
layers they share with other instructions: the decoder looks in the rows of the word's own family only (R74), and what
every skip does to the state (R94, R104 to R107). -/

namespace Sys2Proof

/-! The decoder within a family -/

theorem familyOf_and (w m : Word) : familyOf (w &&& m) = familyOf w &&& familyOf m :=
  BitVec.extractLsb'_and ..

/-- Every mask of R75 keeps the family bits. -/
theorem familyOf_mask {r : Row} (hr : r ∈ opcodeRows) : familyOf r.mask = 15 :=
  (by decide : ∀ r ∈ opcodeRows, familyOf r.mask = 15) r hr

/-- A row selects words of its own family only. -/
theorem family_of_selects {r : Row} {w : Word} (hr : r ∈ opcodeRows) (hs : r.selects w = true) :
    familyOf r.pattern = familyOf w := by
  have hw : w &&& r.mask = r.pattern := beq_iff_eq.1 hs
  rw [← hw, familyOf_and, familyOf_mask hr]
  exact BitVec.and_allOnes (x := familyOf w)

/-- The rows of the opcode map whose pattern lies in family `op`, in the order of the map. -/
def familyRows (op : Nibble) : List Row := opcodeRows.filter fun r => familyOf r.pattern == op

/-- The search of R74 may skip the rows of other families. -/
theorem find?_opcodeRows (w : Word) :
    opcodeRows.find? (·.selects w) = (familyRows (familyOf w)).find? (·.selects w) := by
  rw [familyRows, List.find?_filter]
  refine List.find?_congr fun r hr => ?_
  cases hs : r.selects w with
  | false => simp
  | true => simp [family_of_selects hr hs]

/-- A word whose family has a single row decodes by that row or is reserved (R74, R77). -/
theorem decodeWord_of_familyRows_eq_singleton {w : Word} {r : Row} (h : familyRows (familyOf w) = [r]) :
    decodeWord w = if r.selects w then .ok (r.make w) else .error (.unknownOpcode w) := by
  rw [decodeWord, find?_opcodeRows, h]
  cases hs : r.selects w <;> simp [hs]

/-- A mask that keeps the family and the last nibble compares just those two. -/
theorem selects_xysub_iff {r : Row} {op sub : Nibble} (hm : r.mask = packXyn 15 0 0 15)
    (hp : r.pattern = packXyn op 0 0 sub) (x y n : Nibble) : r.selects (packXyn op x y n) = true ↔ n = sub := by
  have hn : n &&& 15 = n := BitVec.and_allOnes (x := n)
  have hop : op &&& 15 = op := BitVec.and_allOnes (x := op)
  rw [Row.selects, hm, hp, packXyn_and, beq_iff_eq, packXyn_inj, hn, hop]
  simp

/-- In a family whose single row is `op x y 0`, a zero last nibble decodes by that row and any other is reserved (R77). -/
theorem decodeWord_packXyn_zero_or_reserved {op : Nibble} {r : Row} (h : familyRows op = [r])
    (hm : r.mask = packXyn 15 0 0 15) (hp : r.pattern = packXyn op 0 0 0) (x y : Nibble) :
    decodeWord (packXyn op x y 0) = .ok (r.make (packXyn op x y 0)) ∧
      ∀ n : Nibble, n ≠ 0 → decodeWord (packXyn op x y n) = .error (.unknownOpcode (packXyn op x y n)) := by
  have hdec (n : Nibble) := decodeWord_of_familyRows_eq_singleton (w := packXyn op x y n) (r := r)
    (by rw [familyOf_packXyn, h])
  constructor
  · rw [hdec, if_pos ((selects_xysub_iff hm hp ..).2 rfl)]
  · intro n hn
    rw [hdec, if_neg fun hs => hn ((selects_xysub_iff hm hp ..).1 hs)]

/-- 5xy0, and 5xyN reserved for every other N (R77, R106). -/
theorem decodeWord_family5 (x y : Nibble) :
    decodeWord (packXyn 0x5 x y 0x0) = .ok (.seVxVy x y) ∧
      ∀ n : Nibble, n ≠ 0 → decodeWord (packXyn 0x5 x y n) = .error (.unknownOpcode (packXyn 0x5 x y n)) := by
  have h := decodeWord_packXyn_zero_or_reserved (op := 0x5) rfl (by decide) (by decide) x y
  simpa only [fieldX_packXyn, fieldY_packXyn] using h

/-- 9xy0, and 9xyN reserved for every other N (R77, R107). -/
theorem decodeWord_family9 (x y : Nibble) :
    decodeWord (packXyn 0x9 x y 0x0) = .ok (.sneVxVy x y) ∧
      ∀ n : Nibble, n ≠ 0 → decodeWord (packXyn 0x9 x y n) = .error (.unknownOpcode (packXyn 0x9 x y n)) := by
  have h := decodeWord_packXyn_zero_or_reserved (op := 0x9) rfl (by decide) (by decide) x y
  simpa only [fieldX_packXyn, fieldY_packXyn] using h

namespace Machine

/-! What a skip does -/

/-- A skip, taken or not, writes `pc` alone. -/
theorem skipIf_same (taken : Bool) (s : State) : SameBut [.pc] s (skipIf taken s) := by
  refine SameBut.of_fields fun p hp => ?_
  cases p
  case pc => simp at hp
  all_goals simp [Part.fieldsEqual]

/-- An instruction whose handler is a skip always answers a next state, 4 on when the skip is taken and 2 on when it is
not, and writes only `pc` and the timers (R94, R104). -/
theorem exec_skip {i : Instr} {s : State} {taken : Bool} (h : handle i s = .done (skipIf taken s)) :
    ∃ t : State, exec i s = .next t ∧ t.pc = s.pc + (if taken then 4 else 2) ∧ SameBut [.pc, .timers] s t := by
  refine ⟨_, exec_of_done h, ?_, ((skipIf_same taken s).trans (retired_same _)).mono (by simp)⟩
  cases taken with
  | false => simp
  | true => simp [BitVec.add_assoc]

/-- Settles O26: family 5 has one row, and the handler skips on equality. -/
theorem seVxVySkipsOnEqual : Obligations.SeVxVySkipsOnEqual := by
  intro x y s
  obtain ⟨hzero, hreserved⟩ := decodeWord_family5 x y
  obtain ⟨t, hexec, hpc, hframe⟩ := exec_skip (i := .seVxVy x y) (s := s) rfl
  exact ⟨hzero, hreserved, t, hexec, by simpa using hpc, hframe⟩

/-- Settles O27: family 9 has one row, and the handler skips on inequality. -/
theorem sneVxVySkipsOnUnequal : Obligations.SneVxVySkipsOnUnequal := by
  intro x y s
  obtain ⟨hzero, hreserved⟩ := decodeWord_family9 x y
  obtain ⟨t, hexec, hpc, hframe⟩ := exec_skip (i := .sneVxVy x y) (s := s) rfl
  exact ⟨hzero, hreserved, t, hexec, by simpa using hpc, hframe⟩

end Machine

end Sys2Proof
end

section
/-! PROOFS. Family 42_alu: the loads LD Vx,kk and LD Vx,Vy, ADD Vx,kk, and OR, AND and XOR (spec/42_alu.md R120 to R125).
First the two layers they share with other instructions: outside family 0 a word has at most one row, so that the decoder
undoes the encoder (R74), and what every instruction does whose handler writes one register (R94, R95). -/

namespace Sys2Proof

/-! The decoder outside family 0 -/

theorem familyOf_packXkk (op x : Nibble) (kk : Byte) : familyOf (packXkk op x kk) = op := by
  rw [packXkk_eq, familyOf_packXyn]

/-- The matches of two rows that select one word agree under both masks, so that the rows overlap (R74). -/
theorem overlap_of_selects {r q : Row} {w : Word} (hr : r.selects w = true) (hq : q.selects w = true) :
    (r.pattern ^^^ q.pattern) &&& (r.mask &&& q.mask) = 0 := by
  have hrw : w &&& r.mask = r.pattern := beq_iff_eq.1 hr
  have hqw : w &&& q.mask = q.pattern := beq_iff_eq.1 hq
  rw [← hrw, ← hqw]
  ext k hk
  simp only [BitVec.getElem_and, BitVec.getElem_xor]
  cases w[k] <;> cases r.mask[k] <;> simp

/-- Only the rows of 00E0 and 00EE, in family 0, come before the disjoint ones (R74, R75). -/
theorem mem_drop_two_of_family_ne_zero {r : Row} {w : Word} (hr : r ∈ opcodeRows) (hs : r.selects w = true)
    (hw : familyOf w ≠ 0) : r ∈ opcodeRows.drop 2 := by
  have hfirst : ∀ q ∈ opcodeRows.take 2, familyOf q.pattern = 0 := by decide
  rw [← List.take_append_drop 2 opcodeRows, List.mem_append] at hr
  exact hr.resolve_left fun h => hw ((family_of_selects (List.mem_of_mem_take h) hs).symm.trans (hfirst r h))

/-- Outside family 0 at most one row selects a word (R74). -/
theorem row_unique_of_selects {r q : Row} {w : Word} (hr : r ∈ opcodeRows) (hq : q ∈ opcodeRows)
    (hrs : r.selects w = true) (hqs : q.selects w = true) (hw : familyOf w ≠ 0) : r = q := by
  have hunique : (opcodeRows.drop 2).Pairwise fun a b => a.selects w = true → b.selects w = true → a = b :=
    opcodeRows_disjoint.imp fun hab ha hb => absurd (overlap_of_selects ha hb) hab
  exact hunique.forall_of_forall_of_flip (fun _ _ _ _ => rfl) (hunique.imp fun hab hb ha => (hab ha hb).symm)
    (mem_drop_two_of_family_ne_zero hr hrs hw) (mem_drop_two_of_family_ne_zero hq hqs hw) hrs hqs

/-- Outside family 0 a row that selects a word decodes it (R74). -/
theorem decodeWord_of_selects {r : Row} {w : Word} (hr : r ∈ opcodeRows) (hs : r.selects w = true)
    (hw : familyOf w ≠ 0) : decodeWord w = .ok (r.make w) := by
  unfold decodeWord
  cases hf : opcodeRows.find? (·.selects w) with
  | none => exact absurd hs (List.find?_eq_none.1 hf r hr)
  | some q =>
    have hq : q.selects w = true := List.find?_some (p := fun a : Row => a.selects w) hf
    rw [row_unique_of_selects hr (List.mem_of_find?_eq_some hf) hs hq hw]

/-- Outside family 0 the decoder undoes the encoder (R74, R75). -/
theorem decodeWord_encode_of_family_ne_zero {i : Instr} (h : Laws.EncodingShape.Statement i)
    (hi : familyOf (encode i) ≠ 0) : decodeWord (encode i) = .ok i := by
  obtain ⟨r, hr, hs, hmake⟩ := h
  rw [decodeWord_of_selects (List.mem_of_getElem? hr) hs hi, hmake]

/-- Family 8 in the decoder: the word of an instruction of format XYN there decodes to it (R72, R75). -/
theorem decodeWord_family8 {i : Instr} {x y n : Nibble} (h : Laws.EncodingShape.Statement i)
    (hi : encode i = packXyn 0x8 x y n) : decodeWord (packXyn 0x8 x y n) = .ok i := by
  rw [← hi]
  exact decodeWord_encode_of_family_ne_zero h (by rw [hi, familyOf_packXyn]; decide)

namespace Machine

/-! What a register write does -/

theorem setV_same (s : State) (x : Nibble) (b : Byte) : SameBut [.regs] s (s.setV x b) := by
  refine SameBut.of_fields fun p hp => ?_
  cases p
  case regs => simp at hp
  all_goals simp [Part.fieldsEqual]

/-- An instruction whose handler writes the byte `b` to `Vx` always answers a next state, in which `Vx` is `b`, every other
register is as before, VF too, and `pc` is 2 on (R94, R95). -/
theorem exec_setV {i : Instr} {s : State} {x : Nibble} {b : Byte} (h : handle i s = .done (s.setV x b)) :
    ∃ t : State, exec i s = .next t ∧ t.getV x = b ∧ (∀ r : Nibble, r ≠ x → t.getV r = s.getV r) ∧
      t.pc = s.pc + 2 ∧ SameBut [.regs, .pc, .timers] s t := by
  have hregs := retired_same (s.setV x b) .regs (by decide)
  exact ⟨_, exec_of_done h, (hregs x).trans (s.getV_setV_same x b),
    fun r hr => (hregs r).trans (s.getV_setV_ne b hr), by simp, (setV_same s x b).trans (retired_same _)⟩

/-- The same of a byte that is made bit by bit, by `f`, from `Vx` and `Vy`. -/
theorem exec_bitwise {i : Instr} {s : State} {x y : Nibble} {b : Byte} (f : Bool → Bool → Bool)
    (h : handle i s = .done (s.setV x b))
    (hb : ∀ k : Nat, b.getLsbD k = f ((s.getV x).getLsbD k) ((s.getV y).getLsbD k)) :
    ∃ t : State, exec i s = .next t ∧
      (∀ k : Nat, k < 8 → (t.getV x).getLsbD k = f ((s.getV x).getLsbD k) ((s.getV y).getLsbD k)) ∧
      (∀ r : Nibble, r ≠ x → t.getV r = s.getV r) ∧ t.pc = s.pc + 2 ∧ SameBut [.regs, .pc, .timers] s t := by
  obtain ⟨t, hexec, hx, hrest⟩ := exec_setV h
  exact ⟨t, hexec, fun k _ => by rw [hx, hb], hrest⟩

/-- Settles O30: the handler writes the literal. -/
theorem ldVxKkLoadsLiteral : Obligations.LdVxKkLoadsLiteral := fun x kk s =>
  ⟨decodeWord_encode_of_family_ne_zero (Laws.EncodingShape.ldVxKk x kk) (by rw [encode, familyOf_packXkk]; decide),
    exec_setV (i := .ldVxKk x kk) (s := s) rfl⟩

/-- Settles O31: the handler writes the sum of two bytes, which wraps. -/
theorem addVxKkWrapsWithoutFlag : Obligations.AddVxKkWrapsWithoutFlag := by
  intro x kk s
  obtain ⟨t, hexec, hx, hrest⟩ := exec_setV (i := .addVxKk x kk) (s := s) rfl
  exact ⟨decodeWord_encode_of_family_ne_zero (Laws.EncodingShape.addVxKk x kk) (by rw [encode, familyOf_packXkk]; decide),
    t, hexec, by rw [hx, BitVec.toNat_add], hrest⟩

/-- Settles O32: the handler writes the byte of `Vy`. -/
theorem ldVxVyCopies : Obligations.LdVxVyCopies := fun x y s =>
  ⟨decodeWord_family8 (Laws.EncodingShape.ldVxVy x y) rfl, exec_setV (i := .ldVxVy x y) (s := s) rfl⟩

/-- Settles O33: the handlers write the bitwise or, and and exclusive or. -/
theorem logicIsBitwiseWithoutFlag : Obligations.LogicIsBitwiseWithoutFlag := fun x y s =>
  ⟨⟨decodeWord_family8 (Laws.EncodingShape.orVxVy x y) rfl,
      exec_bitwise (i := .orVxVy x y) (s := s) or rfl fun _ => BitVec.getLsbD_or⟩,
    ⟨decodeWord_family8 (Laws.EncodingShape.andVxVy x y) rfl,
      exec_bitwise (i := .andVxVy x y) (s := s) and rfl fun _ => BitVec.getLsbD_and⟩,
    ⟨decodeWord_family8 (Laws.EncodingShape.xorVxVy x y) rfl,
      exec_bitwise (i := .xorVxVy x y) (s := s) xor rfl fun _ => BitVec.getLsbD_xor⟩⟩

end Machine

end Sys2Proof
end

section
/-! PROOFS. Family 43_index_memory: LD I,nnn (spec/43_index_memory.md R140). First the layer it shares with ADD I,Vx and
LD F,Vx: what every instruction does whose handler writes the index register (R94, R95). -/

namespace Sys2Proof

theorem familyOf_packNnn (op : Nibble) (nnn : Addr12) : familyOf (packNnn op nnn) = op := by
  rw [packNnn_eq, familyOf_packXyn]

namespace Machine

/-- Widening an address to a word puts zeros in the upper 4 bits: the number is the same (R140). -/
theorem toNat_zextAddr (nnn : Addr12) : (zextAddr nnn).toNat = nnn.toNat :=
  BitVec.toNat_setWidth_of_le (by decide)

/-! What a write of the index register does -/

theorem setIndex_same (s : State) (w : Word) : SameBut [.index] s (s.setIndex w) := by
  refine SameBut.of_fields fun p hp => ?_
  cases p
  case index => simp at hp
  all_goals simp [Part.fieldsEqual]

/-- An instruction whose handler writes the word `w` to `I` always answers a next state, in which `I` is `w` and `pc` is
2 on, and writes only `I`, `pc` and the timers (R94, R95). -/
theorem exec_setIndex {i : Instr} {s : State} {w : Word} (h : handle i s = .done (s.setIndex w)) :
    ∃ t : State, exec i s = .next t ∧ t.index = w ∧ t.pc = s.pc + 2 ∧ SameBut [.index, .pc, .timers] s t :=
  ⟨_, exec_of_done h, by simp, by simp, (setIndex_same s w).trans (retired_same _)⟩

/-- Settles O40: the handler writes the address, widened to a word. -/
theorem ldILoadsAddress : Obligations.LdILoadsAddress := by
  intro nnn s
  obtain ⟨t, hexec, hindex, hrest⟩ := exec_setIndex (i := .ldINnn nnn) (s := s) rfl
  exact ⟨decodeWord_encode_of_family_ne_zero (Laws.EncodingShape.ldINnn nnn) (by rw [encode, familyOf_packNnn]; decide),
    t, hexec, by rw [hindex, toNat_zextAddr], hrest⟩

end Machine

end Sys2Proof
end

section
/-! PROOFS. Family 45_input_timers: LD Vx,DT and LD DT,Vx (spec/45_input_timers.md R164, R165). First the two layers they
share with other instructions: family F in the decoder (R74, R75), and what the timer phase makes of the timers that a
handler left (R95, R183). -/

namespace Sys2Proof

/-- Family F in the decoder: the word of an instruction of format XKK there decodes to it (R72, R75). -/
theorem decodeWord_familyF {i : Instr} {x : Nibble} {kk : Byte} (h : Laws.EncodingShape.Statement i)
    (hi : encode i = packXkk 0xF x kk) : decodeWord (packXkk 0xF x kk) = .ok i := by
  rw [← hi]
  exact decodeWord_encode_of_family_ne_zero h (by rw [hi, familyOf_packXkk]; decide)

namespace Machine

/-! What the timer phase makes of the handler's timers -/

/-- The timer phase counts down from the timers the handler left, by the tick bit the step began with (R95, R183). -/
theorem timers_of_done {i : Instr} {s u t : State} (h : handle i s = .done u) (hu : u.stepInput = s.stepInput)
    (ht : exec i s = .next t) :
    t.dt.toNat = ticked s.stepInput.tick u.dt ∧ t.st.toNat = ticked s.stepInput.tick u.st := by
  rw [exec_of_done h] at ht
  obtain rfl : u.advance.timerPhase.useInput = t := by injection ht
  rw [← hu]
  exact ⟨State.timerPhase_dt_ticked u.advance, State.timerPhase_st_ticked u.advance⟩

theorem setDt_same (s : State) (b : Byte) : SameBut [.timers] s (s.setDt b) := by
  refine SameBut.of_fields fun p hp => ?_
  cases p
  case timers => simp at hp
  all_goals simp [Part.fieldsEqual]

/-- Settles O54: the handler writes the old `dt` to `Vx` and leaves `dt` to the timer phase. -/
theorem ldVxDtReadsBeforeTick : Obligations.LdVxDtReadsBeforeTick := by
  intro x s
  have hhandle : handle (.ldVxDt x) s = .done (s.setV x s.dt) := rfl
  obtain ⟨t, hexec, hx, hrest⟩ := exec_setV hhandle
  obtain ⟨hdt, -⟩ := timers_of_done hhandle (s.setV_stepInput x s.dt) hexec
  exact ⟨decodeWord_familyF (Laws.EncodingShape.ldVxDt x) rfl, t, hexec, hx, hdt, hrest⟩

/-- Settles O55: the handler writes `Vx` to `dt`, and the timer phase counts down from there. -/
theorem ldDtVxWritesThenTicks : Obligations.LdDtVxWritesThenTicks := by
  intro x s
  have hhandle : handle (.ldDtVx x) s = .done (s.setDt (s.getV x)) := rfl
  have hexec := exec_of_done hhandle
  obtain ⟨hdt, hst⟩ := timers_of_done hhandle (s.setDt_stepInput (s.getV x)) hexec
  exact ⟨decodeWord_familyF (Laws.EncodingShape.ldDtVx x) rfl, _, hexec, hdt, hst, by simp,
    ((setDt_same s _).trans (retired_same _)).mono (by simp)⟩

end Machine

end Sys2Proof
end

section
/-! PROOFS. Family 30_encoding: decoding and encoding are inverse to each other, and the reserved words are those of
the table (spec/30_encoding.md R70 to R77): the word of an instruction and its row, the words that a row selects, a word
put together again from its fields, and the words that no row selects. -/

namespace Sys2Proof

/-! Decoding the word of an instruction -/

/-- A row whose mask keeps every bit selects its pattern alone. -/
theorem selects_fixed_iff {p w : Word} {make : Word → Instr} : Row.selects ⟨0xFFFF, p, make⟩ w = true ↔ w = p := by
  rw [Row.selects, show (0xFFFF : Word) = BitVec.allOnes 16 from rfl, BitVec.and_allOnes, beq_iff_eq]

theorem packNnn_inj {op : Nibble} {a b : Addr12} : packNnn op a = packNnn op b ↔ a = b :=
  ⟨fun h => by simpa only [fieldNnn_packNnn] using congrArg fieldNnn h, fun h => by rw [h]⟩

/-- The row of 0nnn stands after the two fixed words of family 0, and takes every word that they leave (R74, R76). -/
theorem decodeWord_halt {nnn : Addr12} (hcls : nnn ≠ 0x0E0) (hret : nnn ≠ 0x0EE) :
    decodeWord (packNnn 0x0 nnn) = .ok (.halt nnn) := by
  have hrows : opcodeRows = ⟨0xFFFF, packNnn 0 0x0E0, fun _ => .cls⟩ :: ⟨0xFFFF, packNnn 0 0x0EE, fun _ => .ret⟩ ::
      ⟨0xF000, 0x0000, fun w => .halt (fieldNnn w)⟩ :: opcodeRows.drop 3 := rfl
  have hfind : opcodeRows.find? (·.selects (packNnn 0x0 nnn)) =
      some ⟨0xF000, 0x0000, fun w => .halt (fieldNnn w)⟩ := by
    rw [hrows, List.find?_cons_of_neg, List.find?_cons_of_neg, List.find?_cons_of_pos]
    · exact selects_nnn 0 nnn (by decide) (by decide)
    · exact fun h => hret (packNnn_inj.1 (selects_fixed_iff.1 h))
    · exact fun h => hcls (packNnn_inj.1 (selects_fixed_iff.1 h))
  rw [decodeWord, hfind]
  simp only [fieldNnn_packNnn]

/-- Every instruction's own row reads it back from its word (R75). -/
theorem encodingShape (i : Instr) : Laws.EncodingShape.Statement i := by
  cases i with
  | cls => exact Laws.EncodingShape.cls
  | ret => exact Laws.EncodingShape.ret
  | halt nnn => exact Laws.EncodingShape.halt nnn
  | jp nnn => exact Laws.EncodingShape.jp nnn
  | call nnn => exact Laws.EncodingShape.call nnn
  | seVxKk x kk => exact Laws.EncodingShape.seVxKk x kk
  | sneVxKk x kk => exact Laws.EncodingShape.sneVxKk x kk
  | seVxVy x y => exact Laws.EncodingShape.seVxVy x y
  | ldVxKk x kk => exact Laws.EncodingShape.ldVxKk x kk
  | addVxKk x kk => exact Laws.EncodingShape.addVxKk x kk
  | ldVxVy x y => exact Laws.EncodingShape.ldVxVy x y
  | orVxVy x y => exact Laws.EncodingShape.orVxVy x y
  | andVxVy x y => exact Laws.EncodingShape.andVxVy x y
  | xorVxVy x y => exact Laws.EncodingShape.xorVxVy x y
  | addVxVy x y => exact Laws.EncodingShape.addVxVy x y
  | subVxVy x y => exact Laws.EncodingShape.subVxVy x y
  | shrVx x y => exact Laws.EncodingShape.shrVx x y
  | subnVxVy x y => exact Laws.EncodingShape.subnVxVy x y
  | shlVx x y => exact Laws.EncodingShape.shlVx x y
  | sneVxVy x y => exact Laws.EncodingShape.sneVxVy x y
  | ldINnn nnn => exact Laws.EncodingShape.ldINnn nnn
  | jpV0Nnn nnn => exact Laws.EncodingShape.jpV0Nnn nnn
  | rndVxKk x kk => exact Laws.EncodingShape.rndVxKk x kk
  | drwVxVyN x y n => exact Laws.EncodingShape.drwVxVyN x y n
  | skpVx x => exact Laws.EncodingShape.skpVx x
  | sknpVx x => exact Laws.EncodingShape.sknpVx x
  | ldVxDt x => exact Laws.EncodingShape.ldVxDt x
  | ldVxK x => exact Laws.EncodingShape.ldVxK x
  | ldDtVx x => exact Laws.EncodingShape.ldDtVx x
  | ldStVx x => exact Laws.EncodingShape.ldStVx x
  | addIVx x => exact Laws.EncodingShape.addIVx x
  | ldFVx x => exact Laws.EncodingShape.ldFVx x
  | ldBVx x => exact Laws.EncodingShape.ldBVx x
  | ldMemVx x => exact Laws.EncodingShape.ldMemVx x
  | ldVxMem x => exact Laws.EncodingShape.ldVxMem x

/-- Only the three instructions of family 0 have a word there. -/
theorem family_encode_ne_zero {i : Instr} (hcls : i ≠ .cls) (hret : i ≠ .ret) (hhalt : ∀ nnn, i ≠ .halt nnn) :
    familyOf (encode i) ≠ 0 := by
  cases i
  case cls => exact absurd rfl hcls
  case ret => exact absurd rfl hret
  case halt nnn => exact absurd rfl (hhalt nnn)
  all_goals simp only [encode, familyOf_packNnn, familyOf_packXkk, familyOf_packXyn]; decide

/-- Settles O1: outside family 0 at most one row selects a word; in family 0 the order of the rows decides. -/
theorem decodeOfEncodeIsIdentity : Obligations.DecodeOfEncodeIsIdentity := by
  intro i hwf
  by_cases hfixed : i = .cls ∨ i = .ret
  · rcases hfixed with rfl | rfl <;> rfl
  · rw [not_or] at hfixed
    by_cases hhalt : ∃ nnn, i = .halt nnn
    · obtain ⟨nnn, rfl⟩ := hhalt
      have hnnn : nnn ≠ 0x0E0 ∧ nnn ≠ 0x0EE := by simpa [Instr.wellFormed] using hwf
      exact decodeWord_halt hnnn.1 hnnn.2
    · exact decodeWord_encode_of_family_ne_zero (encodingShape i)
        (family_encode_ne_zero hfixed.1 hfixed.2 fun nnn h => hhalt ⟨nnn, h⟩)

/-! The words a row selects -/

/-- A row compares nibble by nibble (R74). -/
theorem selects_iff (r : Row) (w : Word) : r.selects w = true ↔
    familyOf w &&& familyOf r.mask = familyOf r.pattern ∧ fieldX w &&& fieldX r.mask = fieldX r.pattern ∧
    fieldY w &&& fieldY r.mask = fieldY r.pattern ∧ fieldN w &&& fieldN r.mask = fieldN r.pattern := by
  conv_lhs => rw [Row.selects, word_eq_packXyn w, word_eq_packXyn r.mask, word_eq_packXyn r.pattern]
  rw [packXyn_and, beq_iff_eq, packXyn_inj]

/-! A word from its own fields -/

theorem packNnn_family_nnn (w : Word) : packNnn (familyOf w) (fieldNnn w) = w := by
  apply BitVec.eq_of_getLsbD_eq; intro i hi
  simp only [packNnn, familyOf, fieldNnn, BitVec.getLsbD_append, BitVec.getLsbD_extractLsb']
  by_cases h : i < 12
  · simp [h]
  · simp only [if_neg h, decide_eq_true (by omega : i - 12 < 4), Bool.true_and]
    congr 1; omega

theorem packXkk_family_x_kk (w : Word) : packXkk (familyOf w) (fieldX w) (fieldKk w) = w := by
  have hy : (fieldKk w).extractLsb' 4 4 = fieldY w := by
    apply BitVec.eq_of_getLsbD_eq; intro i hi
    simp [fieldKk, fieldY, hi]
  have hn : (fieldKk w).extractLsb' 0 4 = fieldN w := by
    apply BitVec.eq_of_getLsbD_eq; intro i hi
    simp [fieldKk, fieldN, hi]
  rw [packXkk_eq, hy, hn, ← word_eq_packXyn]


/-! The word of the instruction that a row reads -/

/-- A row decodes without loss: it selects only words that its instruction has (R75). -/
def Row.Lossless (r : Row) : Prop := ∀ w : Word, r.selects w = true → encode (r.make w) = w

theorem and_fifteen (n : Nibble) : n &&& 15 = n := BitVec.and_allOnes (x := n)

/-- A row of format NNN (R72). -/
theorem lossless_nnn {r : Row} {op : Nibble} (hm : r.mask = packXyn 15 0 0 0) (hp : r.pattern = packXyn op 0 0 0)
    (henc : ∀ w, encode (r.make w) = packNnn op (fieldNnn w)) : r.Lossless := by
  intro w hs
  rw [selects_iff, hm, hp, familyOf_packXyn, familyOf_packXyn, and_fifteen] at hs
  rw [henc, ← hs.1, packNnn_family_nnn]

/-- A row of format XKK (R72). -/
theorem lossless_xkk {r : Row} {op : Nibble} (hm : r.mask = packXyn 15 0 0 0) (hp : r.pattern = packXyn op 0 0 0)
    (henc : ∀ w, encode (r.make w) = packXkk op (fieldX w) (fieldKk w)) : r.Lossless := by
  intro w hs
  rw [selects_iff, hm, hp, familyOf_packXyn, familyOf_packXyn, and_fifteen] at hs
  rw [henc, ← hs.1, packXkk_family_x_kk]

/-- A row of format XYN with the operand `n` (R72). -/
theorem lossless_xyn {r : Row} {op : Nibble} (hm : r.mask = packXyn 15 0 0 0) (hp : r.pattern = packXyn op 0 0 0)
    (henc : ∀ w, encode (r.make w) = packXyn op (fieldX w) (fieldY w) (fieldN w)) : r.Lossless := by
  intro w hs
  rw [selects_iff, hm, hp, familyOf_packXyn, familyOf_packXyn, and_fifteen] at hs
  rw [henc, ← hs.1, ← word_eq_packXyn]

/-- A row of format XYN with a sub-opcode in the last nibble (R72). -/
theorem lossless_xysub {r : Row} {op sub : Nibble} (hm : r.mask = packXyn 15 0 0 15)
    (hp : r.pattern = packXyn op 0 0 sub) (henc : ∀ w, encode (r.make w) = packXyn op (fieldX w) (fieldY w) sub) :
    r.Lossless := by
  intro w hs
  simp only [selects_iff, hm, hp, familyOf_packXyn, fieldN_packXyn, and_fifteen] at hs
  obtain ⟨hop, -, -, hn⟩ := hs
  rw [henc, ← hop, ← hn, ← word_eq_packXyn]

/-- A row of format XSUB: a sub-opcode in the last byte (R72). -/
theorem lossless_xsub {r : Row} {op : Nibble} {sub : Byte} (hm : r.mask = packXyn 15 0 15 15)
    (hp : r.pattern = packXkk op 0 sub) (henc : ∀ w, encode (r.make w) = packXkk op (fieldX w) sub) :
    r.Lossless := by
  intro w hs
  simp only [selects_iff, hm, hp, packXkk_eq, familyOf_packXyn, fieldY_packXyn, fieldN_packXyn, and_fifteen] at hs
  obtain ⟨hop, -, hy, hn⟩ := hs
  rw [henc, packXkk_eq, ← hop, ← hy, ← hn, ← word_eq_packXyn]

/-- A row of one fixed word (R75). -/
theorem lossless_fixed {r : Row} {i : Instr} (hm : r.mask = BitVec.allOnes 16) (hi : ∀ w, r.make w = i)
    (hp : r.pattern = encode i) : r.Lossless := by
  intro w hs
  rw [Row.selects, hm, BitVec.and_allOnes, beq_iff_eq] at hs
  rw [hi, hs, hp]

/-- No row of R75 drops a bit of a word that it selects. -/
theorem lossless_of_mem {r : Row} (hr : r ∈ opcodeRows) : r.Lossless := by
  revert r
  have hlow : ∀ r ∈ rowsLow, r.Lossless := by
    simp only [rowsLow, List.forall_mem_cons, List.not_mem_nil, false_implies, implies_true, and_true]
    exact ⟨lossless_fixed rfl (fun _ => rfl) rfl, lossless_fixed rfl (fun _ => rfl) rfl,
      lossless_nnn rfl rfl fun _ => rfl, lossless_nnn rfl rfl fun _ => rfl, lossless_nnn rfl rfl fun _ => rfl,
      lossless_xkk rfl rfl fun _ => rfl, lossless_xkk rfl rfl fun _ => rfl, lossless_xysub rfl rfl fun _ => rfl,
      lossless_xkk rfl rfl fun _ => rfl, lossless_xkk rfl rfl fun _ => rfl⟩
  have halu : ∀ r ∈ rowsAlu, r.Lossless := by
    simp only [rowsAlu, List.forall_mem_cons, List.not_mem_nil, false_implies, implies_true, and_true]
    refine ⟨?_, ?_, ?_, ?_, ?_, ?_, ?_, ?_, ?_, ?_⟩
    all_goals exact lossless_xysub rfl rfl fun _ => rfl
  have hhigh : ∀ r ∈ rowsHigh, r.Lossless := by
    simp only [rowsHigh, List.forall_mem_cons, List.not_mem_nil, false_implies, implies_true, and_true]
    refine ⟨lossless_nnn rfl rfl fun _ => rfl, lossless_nnn rfl rfl fun _ => rfl, lossless_xkk rfl rfl fun _ => rfl,
      lossless_xyn rfl rfl fun _ => rfl, ?_, ?_, ?_, ?_, ?_, ?_, ?_, ?_, ?_, ?_, ?_⟩
    all_goals exact lossless_xsub rfl rfl fun _ => rfl
  exact List.forall_mem_append.2 ⟨List.forall_mem_append.2 ⟨hlow, halu⟩, hhigh⟩

/-- A word that decodes was read by a row that selects it (R74). -/
theorem row_of_decodeWord {w : Word} {i : Instr} (h : decodeWord w = .ok i) :
    ∃ r ∈ opcodeRows, r.selects w = true ∧ i = r.make w := by
  unfold decodeWord at h
  split at h
  · next r hr =>
    cases h
    exact ⟨r, List.mem_of_find?_eq_some hr, List.find?_some (p := fun a : Row => a.selects w) hr, rfl⟩
  · cases h

/-- Settles O2: no row drops a bit; a HALT is well-formed because the two fixed words decode to CLS and RET. -/
theorem encodeOfDecodeIsIdentity : Obligations.EncodeOfDecodeIsIdentity := by
  intro w i h
  obtain ⟨r, hr, hs, rfl⟩ := row_of_decodeWord h
  have henc := lossless_of_mem hr w hs
  refine ⟨henc, ?_⟩
  cases hi : r.make w with
  | halt nnn =>
    rw [hi] at h henc
    have hcls : nnn ≠ 0x0E0 := by rintro rfl; rw [← henc] at h; cases h
    have hret : nnn ≠ 0x0EE := by rintro rfl; rw [← henc] at h; cases h
    simpa [Instr.wellFormed] using And.intro hcls hret
  | _ => rfl

/-- Settles O4: twelve closed words, each searched for in the map. -/
theorem sampleWordsDecode : Obligations.SampleWordsDecode := by
  unfold Obligations.SampleWordsDecode
  decide

/-! The reserved words -/

/-- A word is reserved when no row of its family selects it (R77). -/
theorem reserved_iff (w : Word) :
    (∃ e, decodeWord w = .error e) ↔ ∀ r ∈ familyRows (familyOf w), ¬ r.selects w = true := by
  rw [← List.find?_eq_none (p := fun r : Row => r.selects w), decodeWord, find?_opcodeRows]
  cases (familyRows (familyOf w)).find? (·.selects w) <;> simp

theorem family_of_mem_familyRows {op : Nibble} {r : Row} (h : r ∈ familyRows op) : familyOf r.pattern = op :=
  beq_iff_eq.1 (List.mem_filter.1 h).2

/-- A family with a row that compares nothing but the family has no reserved word. -/
theorem not_reserved_of_full_row {op : Nibble}
    (h : ∃ r ∈ familyRows op, r.mask = packXyn 15 0 0 0 ∧ r.pattern = packXyn op 0 0 0) (x y n : Nibble) :
    ¬ ∃ e, decodeWord (packXyn op x y n) = .error e := by
  obtain ⟨r, hr, hm, hp⟩ := h
  rw [reserved_iff, familyOf_packXyn]
  exact fun hnone => hnone r hr (selects_xyn op x y n hm hp)

/-- In a family of format XYN the reserved words are those with a last nibble that no row has. -/
theorem reserved_iff_of_sub {op : Nibble} (x y n : Nibble)
    (h : ∀ r ∈ familyRows op, r.mask = packXyn 15 0 0 15 ∧ r.pattern = packXyn op 0 0 (fieldN r.pattern)) :
    (∃ e, decodeWord (packXyn op x y n) = .error e) ↔ n ∉ (familyRows op).map (fieldN ·.pattern) := by
  rw [reserved_iff, familyOf_packXyn, List.mem_map]
  constructor
  · rintro hnone ⟨r, hr, rfl⟩
    exact hnone r hr ((selects_xysub_iff (h r hr).1 (h r hr).2 ..).2 rfl)
  · intro hno r hr hs
    exact hno ⟨r, hr, ((selects_xysub_iff (h r hr).1 (h r hr).2 ..).1 hs).symm⟩

/-- Families 5 and 9: the one last nibble is 0. -/
theorem reserved_iff_of_zero {op : Nibble} (x y n : Nibble)
    (h : ∀ r ∈ familyRows op, r.mask = packXyn 15 0 0 15 ∧ r.pattern = packXyn op 0 0 (fieldN r.pattern))
    (hsub : (familyRows op).map (fieldN ·.pattern) = [0]) :
    (∃ e, decodeWord (packXyn op x y n) = .error e) ↔ n ≠ 0 := by
  rw [reserved_iff_of_sub x y n h, hsub, List.mem_singleton]

/-- In a family of format XSUB the reserved words are those with a last byte that no row has. -/
theorem reserved_iff_of_byte {op : Nibble} (x y n : Nibble)
    (h : ∀ r ∈ familyRows op, r.mask = packXyn 15 0 15 15 ∧ fieldX r.pattern = 0) :
    (∃ e, decodeWord (packXyn op x y n) = .error e) ↔
      (y, n) ∉ (familyRows op).map fun r => (fieldY r.pattern, fieldN r.pattern) := by
  have hsel : ∀ r ∈ familyRows op,
      r.selects (packXyn op x y n) = true ↔ (fieldY r.pattern, fieldN r.pattern) = (y, n) := by
    intro r hr
    obtain ⟨hm, hx⟩ := h r hr
    simp only [selects_iff, hm, hx, family_of_mem_familyRows hr, familyOf_packXyn, fieldX_packXyn, fieldY_packXyn,
      fieldN_packXyn, and_fifteen, Prod.mk.injEq]
    simp [eq_comm]
  rw [reserved_iff, familyOf_packXyn, List.mem_map]
  constructor
  · rintro hnone ⟨r, hr, he⟩
    exact hnone r hr ((hsel r hr).2 he)
  · intro hno r hr hs
    exact hno ⟨r, hr, (hsel r hr).1 hs⟩

/-- The last nibbles of the rows of family 8 leave out seven values. -/
theorem reserved_family8 (x y n : Nibble) : (∃ e, decodeWord (packXyn 0x8 x y n) = .error e) ↔
    n = 0x8 ∨ n = 0x9 ∨ n = 0xA ∨ n = 0xB ∨ n = 0xC ∨ n = 0xD ∨ n = 0xF := by
  rw [reserved_iff_of_sub x y n (by decide)]
  revert n
  decide

/-- The rows of family E have two last bytes. -/
theorem reserved_familyE (x y n : Nibble) : (∃ e, decodeWord (packXyn 0xE x y n) = .error e) ↔
    ¬ (y = 0x9 ∧ n = 0xE) ∧ ¬ (y = 0xA ∧ n = 0x1) := by
  have hbytes : (familyRows 0xE).map (fun r => (fieldY r.pattern, fieldN r.pattern)) = [(0x9, 0xE), (0xA, 0x1)] := rfl
  rw [reserved_iff_of_byte x y n (by decide), hbytes]
  simp only [List.mem_cons, List.not_mem_nil, or_false, Prod.mk.injEq, not_or]

/-- The rows of family F have nine last bytes. -/
theorem reserved_familyF (x y n : Nibble) : (∃ e, decodeWord (packXyn 0xF x y n) = .error e) ↔
    ¬ (y = 0x0 ∧ n = 0x7) ∧ ¬ (y = 0x0 ∧ n = 0xA) ∧ ¬ (y = 0x1 ∧ n = 0x5) ∧ ¬ (y = 0x1 ∧ n = 0x8) ∧
      ¬ (y = 0x1 ∧ n = 0xE) ∧ ¬ (y = 0x2 ∧ n = 0x9) ∧ ¬ (y = 0x3 ∧ n = 0x3) ∧ ¬ (y = 0x5 ∧ n = 0x5) ∧
      ¬ (y = 0x6 ∧ n = 0x5) := by
  have hbytes : (familyRows 0xF).map (fun r => (fieldY r.pattern, fieldN r.pattern)) =
    [(0x0, 0x7), (0x0, 0xA), (0x1, 0x5), (0x1, 0x8), (0x1, 0xE), (0x2, 0x9), (0x3, 0x3), (0x5, 0x5), (0x6, 0x5)] := rfl
  rw [reserved_iff_of_byte x y n (by decide), hbytes]
  simp only [List.mem_cons, List.not_mem_nil, or_false, Prod.mk.injEq, not_or]

/-- Every other family has a row that takes all its words. -/
theorem full_row_of_family {op : Nibble} (h5 : op ≠ 0x5) (h8 : op ≠ 0x8) (h9 : op ≠ 0x9) (hE : op ≠ 0xE)
    (hF : op ≠ 0xF) : ∃ r ∈ familyRows op, r.mask = packXyn 15 0 0 0 ∧ r.pattern = packXyn op 0 0 0 := by
  revert op
  decide

namespace Machine

/-- Settles O3: the reserved words family by family; the step on one is the DECODE fault of R93. -/
theorem reservedWordsAreExactlyTheTable : Obligations.ReservedWordsAreExactlyTheTable := by
  constructor
  · intro op x y n
    by_cases h5 : op = 0x5
    · subst h5; rw [reserved_iff_of_zero x y n (by decide) rfl]; simp
    by_cases h8 : op = 0x8
    · subst h8; rw [reserved_family8]; simp
    by_cases h9 : op = 0x9
    · subst h9; rw [reserved_iff_of_zero x y n (by decide) rfl]; simp
    by_cases hE : op = 0xE
    · subst hE; rw [reserved_familyE]; simp
    by_cases hF : op = 0xF
    · subst hF; rw [reserved_familyF]; simp
    exact iff_of_false (not_reserved_of_full_row (full_row_of_family h5 h8 h9 hE hF) x y n)
      (by rintro (⟨h, -⟩ | ⟨h, -⟩ | ⟨h, -⟩ | ⟨h, -⟩ | ⟨h, -⟩) <;> contradiction)
  · intro s ir e hh hf hd
    exact ⟨s.raise .unknownOpcode ir, by simp [step, hh, hf, hd], faultEntry_raise s .unknownOpcode ir⟩

end Machine

end Sys2Proof
end

section
/-! PROOFS. What an instruction does that does not fault: the frame of each shared operation, what each handler that may
fault does when it runs through, and from these the parts an instruction writes, its timers, and what it never reads
(spec/10_state.md R20, R22, R26, spec/40_engine_step.md R90 to R95). -/

namespace Sys2Proof.Machine

/-! The frame of each shared operation -/

theorem setPc_same (s : State) (w : Word) : SameBut [.pc] s (s.setPc w) := by
  refine SameBut.of_fields fun p hp => ?_
  cases p
  case pc => simp at hp
  all_goals simp [Part.fieldsEqual]

theorem setSt_same (s : State) (b : Byte) : SameBut [.timers] s (s.setSt b) := by
  refine SameBut.of_fields fun p hp => ?_
  cases p
  case timers => simp at hp
  all_goals simp [Part.fieldsEqual]

theorem push_same (s : State) (w : Word) : SameBut [.sp, .stack] s (s.push w) := by
  refine SameBut.of_fields fun p hp => ?_
  cases p
  case sp => simp at hp
  case stack => simp at hp
  all_goals simp [Part.fieldsEqual]

theorem pop_same (s : State) : SameBut [.sp] s s.pop := by
  refine SameBut.of_fields fun p hp => ?_
  cases p
  case sp => simp at hp
  all_goals simp [Part.fieldsEqual]

theorem setFlagThen_same (s : State) (x : Nibble) (flag result : Byte) :
    SameBut [.regs] s (s.setFlagThen x flag result) :=
  ((setV_same s vf flag).trans (setV_same _ x result)).mono (by simp)

theorem memory_same (s : State) (m : Memory) : SameBut [.mem] s { s with mem := m } := by
  refine SameBut.of_fields fun p hp => ?_
  cases p
  case mem => simp at hp
  all_goals simp [Part.fieldsEqual]

theorem writeBytes_same (s : State) (a : Nat) (bs : List Byte) : SameBut [.mem] s (s.writeBytes a bs) := by
  obtain ⟨m, h⟩ := s.writeBytes_eq a bs
  rw [h]; exact memory_same s m

theorem storeRegs_same (s : State) (base n : Nat) : SameBut [.mem] s (s.storeRegs base n) := by
  obtain ⟨m, h⟩ := s.storeRegs_eq base n
  rw [h]; exact memory_same s m

theorem loadRegs_same (s : State) (base n : Nat) : SameBut [.regs] s (s.loadRegs base n) := by
  obtain ⟨v, h⟩ := s.loadRegs_eq base n
  rw [h]
  refine SameBut.of_fields fun p hp => ?_
  cases p
  case regs => simp at hp
  all_goals simp [Part.fieldsEqual]

theorem showCanvas_same (s : State) (cv : Canvas) : SameBut [.display, .regs, .needsRedraw] s (s.showCanvas cv) := by
  refine SameBut.of_fields fun p hp => ?_
  cases p
  case display => simp at hp
  case regs => simp at hp
  case needsRedraw => simp at hp
  all_goals simp [Part.fieldsEqual]

theorem display_same (s : State) (d : Display) : SameBut [.display] s { s with display := d } := by
  refine SameBut.of_fields fun p hp => ?_
  cases p
  case display => simp at hp
  all_goals simp [Part.fieldsEqual]

theorem halted_same (s : State) (b : Bool) : SameBut [.halted] s { s with halted := b } := by
  refine SameBut.of_fields fun p hp => ?_
  cases p
  case halted => simp at hp
  all_goals simp [Part.fieldsEqual]

theorem SameBut.refl (ps : List Part) (s : State) : SameBut ps s s :=
  SameBut.of_fields fun p _ => by cases p <;> simp [Part.fieldsEqual]

/-! What a handler does that does not fault -/

/-- The handler leaves `t`: it ran through, or it waits for a key (R90, R163). -/
def Runs (i : Instr) (s t : State) : Prop := handle i s = .done t ∨ handle i s = .waiting t

section
variable {s t : State}

/-- A handler that raises a fault under a condition has run when the condition does not hold. -/
theorem runs_of_guard {i : Instr} {c : Prop} [Decidable c] {u : State} {cause : Cause} {info : Word}
    (hh : handle i s = if c then .raises cause info else .done u) (h : Runs i s t) : ¬ c ∧ t = u := by
  unfold Runs at h
  rw [hh] at h
  split at h
  · rcases h with h | h <;> cases h
  · next hc =>
    rcases h with h | h <;> cases h
    exact ⟨hc, rfl⟩

/-- A handler that needs a condition has run when the condition holds. -/
theorem runs_of_ite {i : Instr} {c : Prop} [Decidable c] {u : State} {cause : Cause} {info : Word}
    (hh : handle i s = if c then .done u else .raises cause info) (h : Runs i s t) : c ∧ t = u := by
  obtain ⟨hc, ht⟩ := runs_of_guard (hh.trans (ite_not c _ _).symm) h
  exact ⟨not_not.1 hc, ht⟩

theorem runs_ret (h : Runs .ret s t) : s.sp ≠ 0 ∧ t = (s.setPc (s.slot s.sp)).pop :=
  runs_of_guard rfl h

theorem runs_call {nnn : Addr12} (h : Runs (.call nnn) s t) : s.sp ≠ 15 ∧ t = (s.push s.pc).setPc (zextAddr nnn) :=
  runs_of_guard rfl h

theorem runs_drwVxVyN {x y n : Nibble} (h : Runs (.drwVxVyN x y n) s t) : inBounds (baseAddress s) n.toNat = true ∧
    t = s.showCanvas (s.drawRows (s.getV x).toNat (s.getV y).toNat n.toNat) :=
  runs_of_ite rfl h

theorem runs_ldBVx {x : Nibble} (h : Runs (.ldBVx x) s t) : inBounds (baseAddress s) 3 = true ∧
    t = s.writeBytes (baseAddress s) (bcdDigits (s.getV x)) :=
  runs_of_ite rfl h

theorem runs_ldMemVx {x : Nibble} (h : Runs (.ldMemVx x) s t) : inBounds (baseAddress s) x.toNat = true ∧
    t = s.storeRegs (baseAddress s) x.toNat :=
  runs_of_ite rfl h

theorem runs_ldVxMem {x : Nibble} (h : Runs (.ldVxMem x) s t) : inBounds (baseAddress s) x.toNat = true ∧
    t = s.loadRegs (baseAddress s) x.toNat :=
  runs_of_ite rfl h

theorem runs_skpVx {x : Nibble} (h : Runs (.skpVx x) s t) : ∃ taken, t = skipIf taken s := by
  simp only [Runs, handle, handleSkpVx] at h
  split at h <;> rcases h with h | h <;> cases h
  exact ⟨_, rfl⟩

theorem runs_sknpVx {x : Nibble} (h : Runs (.sknpVx x) s t) : ∃ taken, t = skipIf taken s := by
  simp only [Runs, handle, handleSknpVx] at h
  split at h <;> rcases h with h | h <;> cases h
  exact ⟨_, rfl⟩

theorem runs_ldVxK {x : Nibble} (h : Runs (.ldVxK x) s t) : (∃ b, t = s.setV x b) ∨ t = s := by
  simp only [Runs, handle, handleLdVxK, pollKey] at h
  split at h
  · rcases h with h | h <;> cases h
  · split at h <;> rcases h with h | h <;> cases h
    · exact .inl ⟨_, rfl⟩
    · exact .inr rfl

end

/-- The handler of an instruction that does not fault writes only the instruction's parts (R20). -/
theorem runs_same {i : Instr} {s t : State} (h : Runs i s t) : SameBut (writtenParts i) s t := by
  cases i
  case cls => rcases h with h | h <;> cases h; exact (display_same _ _).mono (by simp [writtenParts])
  case ret =>
    obtain ⟨-, rfl⟩ := runs_ret h
    exact ((setPc_same _ _).trans (pop_same _)).mono (by simp [writtenParts])
  case halt => rcases h with h | h <;> cases h; exact (halted_same _ _).mono (by simp [writtenParts])
  case call =>
    obtain ⟨-, rfl⟩ := runs_call h
    exact ((push_same _ _).trans (setPc_same _ _)).mono (by simp [writtenParts])
  case jp | jpV0Nnn => rcases h with h | h <;> cases h; exact (setPc_same _ _).mono (by simp [writtenParts])
  case seVxKk | sneVxKk | seVxVy | sneVxVy =>
    rcases h with h | h <;> cases h; exact (skipIf_same _ _).mono (by simp [writtenParts])
  case skpVx => obtain ⟨_, rfl⟩ := runs_skpVx h; exact (skipIf_same _ _).mono (by simp [writtenParts])
  case sknpVx => obtain ⟨_, rfl⟩ := runs_sknpVx h; exact (skipIf_same _ _).mono (by simp [writtenParts])
  case ldDtVx => rcases h with h | h <;> cases h; exact (setDt_same _ _).mono (by simp [writtenParts])
  case ldStVx => rcases h with h | h <;> cases h; exact (setSt_same _ _).mono (by simp [writtenParts])
  case ldINnn | addIVx | ldFVx =>
    rcases h with h | h <;> cases h; exact (setIndex_same _ _).mono (by simp [writtenParts])
  case addVxVy | subVxVy | shrVx | subnVxVy | shlVx =>
    rcases h with h | h <;> cases h; exact (setFlagThen_same _ _ _ _).mono (by simp [writtenParts])
  case ldVxK =>
    obtain ⟨_, rfl⟩ | rfl := runs_ldVxK h
    · exact (setV_same _ _ _).mono (by simp [writtenParts])
    · exact SameBut.refl _ _
  case drwVxVyN => obtain ⟨-, rfl⟩ := runs_drwVxVyN h; exact (showCanvas_same _ _).mono (by simp [writtenParts])
  case ldBVx => obtain ⟨-, rfl⟩ := runs_ldBVx h; exact (writeBytes_same _ _ _).mono (by simp [writtenParts])
  case ldMemVx => obtain ⟨-, rfl⟩ := runs_ldMemVx h; exact (storeRegs_same _ _ _).mono (by simp [writtenParts])
  case ldVxMem => obtain ⟨-, rfl⟩ := runs_ldVxMem h; exact (loadRegs_same _ _ _).mono (by simp [writtenParts])
  case ldVxKk | addVxKk | ldVxVy | orVxVy | andVxVy | xorVxVy | rndVxKk | ldVxDt =>
    rcases h with h | h <;> cases h; exact (setV_same _ _ _).mono (by simp [writtenParts])

/-- The handler of an instruction that does not fault writes only the registers its rule names (R20, R22). -/
theorem runs_getV {i : Instr} {s t : State} (h : Runs i s t) {r : Nibble} (hr : ¬ mayWriteReg i r) :
    t.getV r = s.getV r := by
  cases i
  case addVxVy | subVxVy | shrVx | subnVxVy | shlVx =>
    rcases h with h | h <;> cases h
    rw [State.getV_setFlagThen, if_neg fun e => hr (.inl e), if_neg fun e => hr (.inr e)]
  case ldVxK =>
    obtain ⟨_, rfl⟩ | rfl := runs_ldVxK h
    · exact State.getV_setV_ne _ _ hr
    · rfl
  case drwVxVyN =>
    obtain ⟨-, rfl⟩ := runs_drwVxVyN h
    rw [State.getV_showCanvas, if_neg fun e => hr e.2]
  case ldVxMem x =>
    obtain ⟨-, rfl⟩ := runs_ldVxMem h
    exact (State.getV_loadRegs _ _ _ x.isLt.le r).trans (if_neg hr)
  case ldVxKk | addVxKk | ldVxVy | orVxVy | andVxVy | xorVxVy | rndVxKk | ldVxDt =>
    rcases h with h | h <;> cases h; exact State.getV_setV_ne _ _ hr
  all_goals exact runs_same h .regs (by simp [writtenParts]) r

end Sys2Proof.Machine
end

section
/-! PROOFS. The statements about every instruction and every step: what each writes, the timers after it, what none
reads, that each answers a next state, that faults are precise, and the engine's phases (spec/10_state.md R20 to R26,
spec/40_engine_step.md R90 to R98, spec/60_exceptions.md R179 to R184). -/

namespace Sys2Proof.Machine

/-! What `exec` answers -/

/-- The TIMER phase after a wait keeps everything but the timers and the model's own step input (R163). -/
theorem waited_same (t : State) : SameBut [.timers] t t.timerPhase.useInput := by
  refine SameBut.of_fields fun p hp => ?_
  cases p
  case timers => simp at hp
  all_goals simp [Part.fieldsEqual]

/-- An instruction ends in a fault entry of its own, or in the engine's phases after its handler (R90, R98). -/
theorem exec_next_cases {i : Instr} {s t : State} (h : exec i s = .next t) :
    (∃ c, 3 ≤ c.code.toNat ∧ c.code.toNat ≤ 7 ∧ t = s.raise c (encode i)) ∨
    (∃ u, Runs i s u ∧ (t = u.advance.timerPhase.useInput ∨ t = u.timerPhase.useInput)) := by
  rw [exec_eq_finish] at h
  obtain ⟨u, hu, he⟩ | ⟨u, hu, he⟩ | ⟨c, info, hu, he⟩ := finish_cases s (handle i s) <;> rw [he] at h <;> cases h
  · exact .inr ⟨u, .inl hu, .inl rfl⟩
  · exact .inr ⟨u, .inr hu, .inr rfl⟩
  · obtain ⟨hlo, hhi, rfl⟩ := handle_raises hu
    exact .inl ⟨c, hlo, hhi, rfl⟩

/-- The engine writes `pc` and the timers after every instruction, so that its list of parts holds them (R94, R95). -/
theorem engine_parts (i : Instr) : ∀ p ∈ [Part.pc, Part.timers], p ∈ writtenParts i := by
  cases i <;> simp [writtenParts]

/-- Settles O12: the handler keeps the frame and the registers, and the engine's phases add `pc` and the timers. -/
theorem instructionsWriteOnlyTheirColumn : Obligations.InstructionsWriteOnlyTheirColumn := by
  intro i s t h
  obtain ⟨c, hlo, hhi, rfl⟩ | ⟨u, hu, ht⟩ := exec_next_cases h
  · exact .inl ⟨_, _, hlo, hhi, faultEntry_raise s c _⟩
  · right
    have hsame : SameBut [.pc, .timers] u t := by
      rcases ht with rfl | rfl
      · exact retired_same u
      · exact (waited_same u).mono (by simp)
    refine ⟨((runs_same hu).trans hsame).mono fun p hp => ?_, fun r hr => ?_⟩
    · exact (List.mem_append.1 hp).elim id (engine_parts i p)
    · exact (hsame .regs (by simp) r).trans (runs_getV hu hr)

/-! The timers -/

/-- `dt` as the handler leaves it: only LD DT writes it (R26). -/
def handledDt (i : Instr) (s : State) : Byte :=
  match i with
  | .ldDtVx x => s.getV x
  | _ => s.dt

/-- `st` as the handler leaves it: only LD ST writes it (R26). -/
def handledSt (i : Instr) (s : State) : Byte :=
  match i with
  | .ldStVx x => s.getV x
  | _ => s.st

theorem runs_timers {i : Instr} {s t : State} (h : Runs i s t) : t.dt = handledDt i s ∧ t.st = handledSt i s := by
  cases i
  case ret => obtain ⟨-, rfl⟩ := runs_ret h; exact ⟨rfl, rfl⟩
  case call => obtain ⟨-, rfl⟩ := runs_call h; exact ⟨rfl, rfl⟩
  case drwVxVyN => obtain ⟨-, rfl⟩ := runs_drwVxVyN h; exact showCanvas_same _ _ .timers (by simp)
  case skpVx => obtain ⟨_, rfl⟩ := runs_skpVx h; exact skipIf_same _ _ .timers (by simp)
  case sknpVx => obtain ⟨_, rfl⟩ := runs_sknpVx h; exact skipIf_same _ _ .timers (by simp)
  case ldVxK =>
    obtain ⟨_, rfl⟩ | rfl := runs_ldVxK h
    · exact ⟨rfl, rfl⟩
    · exact ⟨rfl, rfl⟩
  case ldBVx => obtain ⟨-, rfl⟩ := runs_ldBVx h; exact writeBytes_same _ _ _ .timers (by simp)
  case ldMemVx => obtain ⟨-, rfl⟩ := runs_ldMemVx h; exact storeRegs_same _ _ _ .timers (by simp)
  case ldVxMem => obtain ⟨-, rfl⟩ := runs_ldVxMem h; exact loadRegs_same _ _ _ .timers (by simp)
  case seVxKk | sneVxKk | seVxVy | sneVxVy =>
    rcases h with h | h <;> cases h; exact skipIf_same _ _ .timers (by simp)
  all_goals rcases h with h | h <;> cases h; exact ⟨rfl, rfl⟩

/-- A handler that does not fault leaves the step input to the timer phase (R5). -/
theorem runs_stepInput {i : Instr} {s t : State} (h : Runs i s t) : t.stepInput = s.stepInput := by
  obtain ⟨-, -, -, -, -, hinputs, hdraws⟩ := handle_keeps h
  exact stepInput_congr hinputs hdraws

/-- Settles O11: the timer phase counts down from what the handler left. -/
theorem timersAfterEveryInstruction : Obligations.TimersAfterEveryInstruction := by
  intro i s t h
  obtain ⟨c, hlo, hhi, rfl⟩ | ⟨u, hu, ht⟩ := exec_next_cases h
  · exact .inl ⟨_, _, hlo, hhi, faultEntry_raise s c _⟩
  · right
    obtain ⟨hdt, hst⟩ := runs_timers hu
    have hticked : t.dt.toNat = ticked u.stepInput.tick u.dt ∧ t.st.toNat = ticked u.stepInput.tick u.st := by
      rcases ht with rfl | rfl
      · exact ⟨State.timerPhase_dt_ticked u.advance, State.timerPhase_st_ticked u.advance⟩
      · exact ⟨State.timerPhase_dt_ticked u, State.timerPhase_st_ticked u⟩
    rwa [runs_stepInput hu, hdt, hst] at hticked

/-! What no handler reads -/

/-- A handler's answer with the states in it changed. -/
def Handled.map (f : State → State) : Handled → Handled
  | .done t => .done (f t)
  | .waiting t => .waiting (f t)
  | .raises c info => .raises c info

/-- Handlers that check one condition are compared branch by branch. -/
theorem map_ite {c : Prop} [Decidable c] {a b a' b' : Handled} (f : State → State) (ha : a' = a.map f)
    (hb : b' = b.map f) : (if c then a' else b') = (if c then a else b).map f := by
  split
  · exact ha
  · exact hb

/-- The sound timer and the supplied step inputs changed, which no handler but LD ST and RND has to do with. -/
def State.retune (f : Byte → Byte) (g : List StepInput → List StepInput) (s : State) : State :=
  { s with st := f s.st, inputs := g s.inputs }

section
variable (f : Byte → Byte) (g : List StepInput → List StepInput) (s : State)

theorem skipIf_retune (taken : Bool) : skipIf taken (s.retune f g) = (skipIf taken s).retune f g := by
  cases taken <;> rfl

theorem showCanvas_retune (cv : Canvas) : (s.retune f g).showCanvas cv = (s.showCanvas cv).retune f g := by
  obtain ⟨d, hit⟩ := cv
  cases hit <;> rfl

theorem writeBytes_retune (a : Nat) (bs : List Byte) :
    (s.retune f g).writeBytes a bs = (s.writeBytes a bs).retune f g := by
  induction bs generalizing s a with
  | nil => rfl
  | cons b bs ih => exact ih (s.writeByte a b) (a + 1)

theorem storeRegs_retune (base n : Nat) : (s.retune f g).storeRegs base n = (s.storeRegs base n).retune f g := by
  induction n with
  | zero => rfl
  | succ k ih => rw [State.storeRegs, ih]; rfl

theorem loadRegs_retune (base n : Nat) : (s.retune f g).loadRegs base n = (s.loadRegs base n).retune f g := by
  induction n with
  | zero => rfl
  | succ k ih => rw [State.loadRegs, ih]; rfl

theorem drawRows_retune (vx vy n : Nat) : (s.retune f g).drawRows vx vy n = s.drawRows vx vy n := by
  induction n with
  | zero => rfl
  | succ k ih => rw [State.drawRows, ih]; rfl

/-- No handler but RND's and LD ST's has to do with the step inputs or the sound timer (R26, R131). -/
theorem handle_retune {i : Instr} (hrnd : ∀ x kk, i ≠ .rndVxKk x kk) (hst : ∀ x, i ≠ .ldStVx x) :
    handle i (s.retune f g) = (handle i s).map (State.retune f g) := by
  cases i
  case rndVxKk x kk => exact absurd rfl (hrnd x kk)
  case ldStVx x => exact absurd rfl (hst x)
  case ret | call => exact map_ite _ rfl rfl
  case seVxKk | sneVxKk | seVxVy | sneVxVy => exact congrArg Handled.done (skipIf_retune f g s _)
  case drwVxVyN x y n =>
    refine map_ite _ ?_ rfl
    rw [drawRows_retune]
    exact congrArg Handled.done (showCanvas_retune f g s _)
  case skpVx x =>
    simp only [handle, handleSkpVx, show keyOperand (s.retune f g) x = keyOperand s x from rfl]
    cases keyOperand s x with
    | none => rfl
    | some k => exact congrArg Handled.done (skipIf_retune f g s _)
  case sknpVx x =>
    simp only [handle, handleSknpVx, show keyOperand (s.retune f g) x = keyOperand s x from rfl]
    cases keyOperand s x with
    | none => rfl
    | some k => exact congrArg Handled.done (skipIf_retune f g s _)
  case ldVxK x =>
    simp only [handle, handleLdVxK, pollKey, show (s.retune f g).leastKeyHeld = s.leastKeyHeld from rfl,
      show (s.retune f g).config = s.config from rfl]
    cases s.config.waitKeyPolicy with
    | fault => rfl
    | poll => cases s.leastKeyHeld <;> rfl
  case ldBVx => exact map_ite _ (congrArg Handled.done (writeBytes_retune f g s _ _)) rfl
  case ldMemVx => exact map_ite _ (congrArg Handled.done (storeRegs_retune f g s _ _)) rfl
  case ldVxMem => exact map_ite _ (congrArg Handled.done (loadRegs_retune f g s _ _)) rfl
  all_goals rfl

end

/-- Settles O13: the two runs differ in `st` alone up to the timer phase, and LD ST overwrites it in both. -/
theorem noInstructionReadsSoundTimer : Obligations.NoInstructionReadsSoundTimer := by
  intro i s t u b ht hu
  by_cases hst : ∃ x, i = .ldStVx x
  · obtain ⟨x, rfl⟩ := hst
    cases ht; cases hu; rfl
  have hhandle : handle i { s with st := b } = (handle i s).map (State.retune (fun _ => b) id) := by
    by_cases hrnd : ∃ x kk, i = .rndVxKk x kk
    · obtain ⟨x, kk, rfl⟩ := hrnd
      rfl
    · exact handle_retune (fun _ => b) id s (fun x kk h => hrnd ⟨x, kk, h⟩) fun x h => hst ⟨x, h⟩
  rw [exec_eq_finish] at ht hu
  rw [hhandle] at hu
  cases hv : handle i s
  all_goals
    rw [hv] at ht hu
    cases ht
    cases hu
    rfl

/-- Settles O14: the two runs differ in the supplied input alone up to the timer phase, which reads its tick bit. -/
theorem onlyRndReadsRand : Obligations.OnlyRndReadsRand := by
  intro i s t u a b tick hrnd ht hu
  by_cases hst : ∃ x, i = .ldStVx x
  · obtain ⟨x, rfl⟩ := hst
    cases ht; cases hu; rfl
  have hhandle (l : List StepInput) : handle i { s with inputs := l } = (handle i s).map (State.retune id fun _ => l) :=
    handle_retune id (fun _ => l) s hrnd fun x h => hst ⟨x, h⟩
  rw [exec_eq_finish, hhandle] at ht hu
  cases hv : handle i s
  all_goals
    rw [hv] at ht hu
    cases ht
    cases hu
    rfl

/-! Every step -/

theorem exec_next (i : Instr) (s : State) : ∃ t : State, exec i s = .next t := by
  rw [exec_eq_finish]
  obtain ⟨_, -, h⟩ | ⟨_, -, h⟩ | ⟨_, _, -, h⟩ := finish_cases s (handle i s) <;> exact ⟨_, h⟩

/-- Settles O9: a halted core and a fault entry are states, and so is what `finish` leaves. -/
theorem everyStepAnswersANextState : Obligations.EveryStepAnswersANextState := by
  refine ⟨fun s => ?_, exec_next⟩
  obtain ⟨-, h⟩ | ⟨-, -, h⟩ | ⟨_, _, -, -, -, h⟩ | ⟨_, i, -, -, -, h⟩ := step_cases s
  · exact ⟨_, h⟩
  · exact ⟨_, h⟩
  · exact ⟨_, h⟩
  · rw [h]; exact exec_next i s

/-- Settles O10: only a fault entry leaves a cause, and the instruction's word is the fetched one. -/
theorem faultsArePrecise : Obligations.FaultsArePrecise := by
  intro s t hh hcause hstep ht
  obtain ⟨h, -⟩ | ⟨-, hf, h⟩ | ⟨ir, _, -, hf, -, h⟩ | ⟨ir, i, -, hf, hd, h⟩ := step_cases s
  · rw [hh] at h; cases h
  · rw [h] at hstep; cases hstep
    exact .inl ⟨hf, faultEntry_raise s .pcOutOfRange _⟩
  · rw [h] at hstep; cases hstep
    exact .inr ⟨ir, 2, hf, by omega, by omega, faultEntry_raise s .unknownOpcode _⟩
  · rw [h] at hstep
    obtain ⟨c, hlo, hhi, rfl⟩ | ⟨u, hu, hut⟩ := exec_next_cases hstep
    · rw [(encodeOfDecodeIsIdentity ir i hd).1]
      exact .inr ⟨ir, _, hf, by omega, hhi, faultEntry_raise s c ir⟩
    · obtain ⟨hkeep, -⟩ := handle_keeps hu
      exact absurd (by rcases hut with rfl | rfl <;> exact hkeep.trans hcause) ht

theorem Phase.after_add (m n : Nat) (p : Phase) : Phase.after (m + n) p = Phase.after n (Phase.after m p) := by
  induction m generalizing p with
  | zero => rw [Nat.zero_add]; rfl
  | succ m ih => rw [Nat.succ_add]; exact ih p.following

/-- Settles O15: from IDLE a step of a running core passes as many phases as it reaches, at most six. -/
theorem enginePhasesRefineStep : Obligations.EnginePhasesRefineStep := by
  intro s t hstep
  obtain ⟨hh, h⟩ | ⟨hh, hf, h⟩ | ⟨ir, _, hh, hf, hd, h⟩ | ⟨ir, i, hh, hf, hd, h⟩ := step_cases s <;> rw [h] at hstep
  · cases hstep
    exact ⟨1, by omega, by omega, by simp [Phase.after, restPhase, Phase.following, hh]⟩
  · cases hstep
    exact ⟨2, by omega, by omega, by simp [Phase.after, restPhase, Phase.following, hh, hf]⟩
  · cases hstep
    exact ⟨3, by omega, by omega, by simp [Phase.after, restPhase, Phase.following, hh, hf, hd]⟩
  · rw [exec_eq_finish] at hstep
    have hexecute : Phase.after 3 (restPhase s) = .execute s i := by
      simp [Phase.after, restPhase, Phase.following, hh, hf, hd]
    obtain ⟨u, hu, he⟩ | ⟨u, hu, he⟩ | ⟨c, info, hu, he⟩ := finish_cases s (handle i s)
    all_goals
      rw [he] at hstep
      cases hstep
    · refine ⟨6, by omega, by omega, ?_⟩
      rw [Phase.after_add 3 3, hexecute]
      simp [Phase.after, Phase.following, restPhase, hu]
    · refine ⟨5, by omega, by omega, ?_⟩
      rw [Phase.after_add 3 2, hexecute]
      simp [Phase.after, Phase.following, restPhase, hu]
    · refine ⟨4, by omega, by omega, ?_⟩
      rw [Phase.after_add 3 1, hexecute]
      simp [Phase.after, Phase.following, restPhase, hu]

end Sys2Proof.Machine
end

section
/-! PROOFS. The invariant of the machine (spec/10_state.md R28 to R36): every handler that runs keeps it, so every step
and every transaction of the host do, and every reachable state meets it. -/

namespace Sys2Proof.Machine

/-! Bounds of the operands -/

theorem toNat_zextByte (b : Byte) : (zextByte b).toNat = b.toNat := BitVec.toNat_setWidth_of_le (by decide)

/-- The target of JP V0,nnn is the sum of its operands, not reduced (R108, decision D2). -/
theorem toNat_jumpOffsetTarget (s : State) (nnn : Addr12) :
    (jumpOffsetTarget s nnn).toNat = nnn.toNat + (s.getV 0).toNat := by
  have hnnn := nnn.isLt
  have hv := (s.getV 0).isLt
  rw [jumpOffsetTarget, BitVec.toNat_add, toNat_zextAddr, toNat_zextByte, Nat.mod_eq_of_lt (by omega)]

theorem toNat_add_two {w : Word} (h : w.toNat < 65534) : (w + 2).toNat = w.toNat + 2 := by
  have hsum : (w + 2).toNat = (w.toNat + 2) % 2 ^ 16 := BitVec.toNat_add w 2
  rw [hsum, Nat.mod_eq_of_lt (by omega)]

/-! What each handler does to the fields the invariant speaks of -/

section
variable {i : Instr} {s t : State}

/-- Where a handler can leave `pc`: JP V0,nnn reaches farthest (R36, R108). -/
theorem runs_pc_le (hs : s.Inv) (hpc : s.pc.toNat ≤ 4094) (h : Runs i s t) : t.pc.toNat ≤ 0x10FE := by
  have hskip (taken : Bool) : (skipIf taken s).pc.toNat ≤ 0x10FE := by
    rw [skipIf_pc]
    split
    · rw [toNat_add_two (by omega)]; omega
    · omega
  have hjump (nnn : Addr12) : (zextAddr nnn).toNat ≤ 0x10FE := by
    rw [toNat_zextAddr]; have := nnn.isLt; omega
  have hsame : t.pc = s.pc → t.pc.toNat ≤ 0x10FE := fun e => by rw [e]; omega
  cases i
  case ret =>
    obtain ⟨-, rfl⟩ := runs_ret h
    exact (hs.slotBound s.sp).trans (by omega)
  case call => obtain ⟨-, rfl⟩ := runs_call h; exact hjump _
  case jp => rcases h with h | h <;> cases h; exact hjump _
  case jpV0Nnn nnn =>
    rcases h with h | h <;> cases h
    rw [State.setPc_pc, toNat_jumpOffsetTarget]
    have := nnn.isLt; have := (s.getV 0).isLt; omega
  case seVxKk | sneVxKk | seVxVy | sneVxVy => rcases h with h | h <;> cases h; exact hskip _
  case skpVx => obtain ⟨_, rfl⟩ := runs_skpVx h; exact hskip _
  case sknpVx => obtain ⟨_, rfl⟩ := runs_sknpVx h; exact hskip _
  case ldVxK => obtain ⟨_, rfl⟩ | rfl := runs_ldVxK h <;> exact hsame rfl
  case drwVxVyN => obtain ⟨-, rfl⟩ := runs_drwVxVyN h; exact hsame (showCanvas_same _ _ .pc (by simp))
  case ldBVx => obtain ⟨-, rfl⟩ := runs_ldBVx h; exact hsame (writeBytes_same _ _ _ .pc (by simp))
  case ldMemVx => obtain ⟨-, rfl⟩ := runs_ldMemVx h; exact hsame (storeRegs_same _ _ _ .pc (by simp))
  case ldVxMem => obtain ⟨-, rfl⟩ := runs_ldVxMem h; exact hsame (loadRegs_same _ _ _ .pc (by simp))
  all_goals rcases h with h | h <;> cases h; exact hsame rfl

/-- Only CALL writes a slot: its own address, which a fetch has bounded, and never slot 0 (R25, R36, R103). -/
theorem runs_slots (hs : s.Inv) (hpc : s.pc.toNat ≤ 4094) (h : Runs i s t) :
    (∀ k : Nibble, (t.slot k).toNat ≤ 4094) ∧ t.slot 0 = 0 := by
  have hsame (hstack : Part.stack ∉ writtenParts i) : (∀ k : Nibble, (t.slot k).toNat ≤ 4094) ∧ t.slot 0 = 0 := by
    have hslot := runs_same h .stack hstack
    exact ⟨fun k => by rw [hslot k]; exact hs.slotBound k, (hslot 0).trans hs.slotZero⟩
  cases i
  case call =>
    obtain ⟨hsp, rfl⟩ := runs_call h
    have hzero : (0 : Nibble) ≠ s.sp + 1 := fun e => hsp (by rw [← add_sub_cancel_right s.sp 1, ← e]; rfl)
    constructor
    · intro k
      show ((s.push s.pc).slot k).toNat ≤ 4094
      rw [State.slot_push]
      split
      · exact hpc
      · exact hs.slotBound k
    · show (s.push s.pc).slot 0 = 0
      rw [State.slot_push, if_neg hzero, hs.slotZero]
  all_goals exact hsame (by simp [writtenParts])

/-- Only LD B and LD [I] write memory, and both only within it (R56, R143, R144). -/
theorem runs_memWf (hs : s.Inv) (h : Runs i s t) : Memory.wf t.config.font t.mem = true := by
  obtain ⟨-, -, hconfig, -⟩ := handle_keeps h
  rw [hconfig]
  have hsame (hmem : t.mem = s.mem) : Memory.wf s.config.font t.mem = true := by rw [hmem]; exact hs.memWf
  cases i
  case ldBVx =>
    obtain ⟨hbounds, rfl⟩ := runs_ldBVx h
    exact s.writeBytes_wf _ _ (((inBounds_iff _ _).1 hbounds).resolve_left (by omega)) hs.memWf
  case ldMemVx =>
    obtain ⟨hbounds, rfl⟩ := runs_ldMemVx h
    exact s.storeRegs_wf _ _ ((inBounds_iff _ _).1 hbounds).symm hs.memWf
  case ret => obtain ⟨-, rfl⟩ := runs_ret h; exact hsame rfl
  case call => obtain ⟨-, rfl⟩ := runs_call h; exact hsame rfl
  case seVxKk | sneVxKk | seVxVy | sneVxVy => rcases h with h | h <;> cases h; exact hsame (skipIf_mem _ _)
  case skpVx => obtain ⟨_, rfl⟩ := runs_skpVx h; exact hsame (skipIf_mem _ _)
  case sknpVx => obtain ⟨_, rfl⟩ := runs_sknpVx h; exact hsame (skipIf_mem _ _)
  case ldVxK => obtain ⟨_, rfl⟩ | rfl := runs_ldVxK h <;> exact hsame rfl
  case drwVxVyN => obtain ⟨-, rfl⟩ := runs_drwVxVyN h; exact hsame (State.showCanvas_mem _ _)
  case ldVxMem x =>
    obtain ⟨-, rfl⟩ := runs_ldVxMem h
    obtain ⟨_, he⟩ := s.loadRegs_eq (baseAddress s) x.toNat
    exact hsame (by rw [he])
  all_goals rcases h with h | h <;> cases h; exact hsame rfl

/-- In low resolution a sprite stays in the upper left quarter (R151, R152). -/
theorem covers_lowRes (hlow : s.highResolution = false) {vx vy n r c : Nat} (h : covers s vx vy n r c) :
    r < 32 ∧ c < 64 := by
  obtain ⟨_, _, -, -, -, rfl, rfl⟩ := h
  have hH : s.frameHeight = 32 := by simp [State.frameHeight, hlow]
  have hW : s.frameWidth = 64 := by simp [State.frameWidth, hlow]
  rw [hH, hW]
  omega

/-- Only CLS and DRW write the display; neither lights a pixel outside the low-resolution frame (R28). -/
theorem runs_lowResDark (hs : s.Inv) (h : Runs i s t) (hlow : t.highResolution = false) {r c : Nat}
    (hrc : 32 ≤ r ∨ 64 ≤ c) : t.display.pixel r c = false := by
  obtain ⟨-, -, -, -, hres, -⟩ := handle_keeps h
  have hdark := hs.lowResDark (hres.symm.trans hlow) r c hrc
  cases i
  case cls => rcases h with h | h <;> cases h; exact Display.pixel_clear r c
  case drwVxVyN x y n =>
    classical
    obtain ⟨-, rfl⟩ := runs_drwVxVyN h
    have hcov : ¬ covers s (s.getV x).toNat (s.getV y).toNat n.toNat r c := fun hcov => by
      have := covers_lowRes (hres.symm.trans hlow) hcov
      omega
    rw [State.showCanvas_display, State.pixel_drawRows _ _ _ _ (by have := n.isLt; omega), decide_eq_false hcov, hdark]
    rfl
  all_goals exact (runs_same h .display (by simp [writtenParts]) r c).trans hdark

/-- A handler that does not fault keeps the invariant, and leaves `pc` two below its bound (R36). -/
theorem runs_inv (hs : s.Inv) (hh : s.halted = false) (hpc : s.pc.toNat ≤ 4094) (h : Runs i s t) :
    t.Inv ∧ t.pc.toNat ≤ 0x10FE := by
  obtain ⟨hcause, hinfo, hconfig, -, hres, -⟩ := handle_keeps h
  have hnone : s.faultCause = 0 := by
    by_contra hne
    rw [hs.causeHalts hne] at hh
    cases hh
  have hpc' := runs_pc_le hs hpc h
  obtain ⟨hslots, hzero⟩ := runs_slots hs hpc h
  refine ⟨⟨by omega, hslots, hzero, runs_memWf hs h, by rw [hres, hconfig]; exact hs.highRes, ?_, ?_, ?_, ?_⟩, hpc'⟩
  · rw [hcause]; exact hs.causeBound
  · rw [hcause]; exact fun hne => absurd hnone hne
  · rw [hinfo]; exact fun _ => hs.noCauseNoInfo hnone
  · exact fun hlow r c hrc => runs_lowResDark hs h hlow hrc

end

/-! Steps and transactions -/

/-- The invariant does not speak of the registers, `I`, `sp`, the timers, the keys, `needs_redraw` and the model's own
step input, and a new `pc` within its bound is as good. -/
theorem State.Inv.of_same {s t : State} (hs : s.Inv) (hpc : t.pc.toNat ≤ 0x1100) (hstack : t.stack = s.stack)
    (hmem : t.mem = s.mem) (hdisplay : t.display = s.display) (hres : t.highResolution = s.highResolution)
    (hhalted : t.halted = s.halted) (hcause : t.faultCause = s.faultCause) (hinfo : t.faultInfo = s.faultInfo)
    (hconfig : t.config = s.config) : t.Inv where
  pcBound := hpc
  slotBound k := by rw [slot_congr hstack]; exact hs.slotBound k
  slotZero := by rw [slot_congr hstack]; exact hs.slotZero
  memWf := by rw [hmem, hconfig]; exact hs.memWf
  highRes := by rw [hres, hconfig]; exact hs.highRes
  causeBound := by rw [hcause]; exact hs.causeBound
  causeHalts := by rw [hcause, hhalted]; exact hs.causeHalts
  noCauseNoInfo := by rw [hcause, hinfo]; exact hs.noCauseNoInfo
  lowResDark := by rw [hres, hdisplay]; exact hs.lowResDark

theorem Cause.code_le (c : Cause) : c.code.toNat ≤ 7 := by cases c <;> decide

/-- A fault entry keeps the invariant: its code is one of R170, and it halts. -/
theorem raise_inv {s : State} (hs : s.Inv) (c : Cause) (info : Word) : (s.raise c info).Inv where
  pcBound := hs.pcBound
  slotBound := hs.slotBound
  slotZero := hs.slotZero
  memWf := hs.memWf
  highRes := hs.highRes
  causeBound := c.code_le
  causeHalts _ := rfl
  noCauseNoInfo h := absurd h c.code_ne_zero
  lowResDark := hs.lowResDark

/-- Settles O17: a handler runs from a fetched address, and the engine's phases add 2 to its `pc`. -/
theorem everyStepKeepsInvariant : Obligations.EveryStepKeepsInvariant := by
  intro s t hs hstep
  obtain ⟨-, h⟩ | ⟨-, -, h⟩ | ⟨_, _, -, -, -, h⟩ | ⟨_, i, hh, hf, -, h⟩ := step_cases s <;> rw [h] at hstep
  · cases hstep; exact hs
  · cases hstep; exact raise_inv hs _ _
  · cases hstep; exact raise_inv hs _ _
  · obtain ⟨c, -, -, rfl⟩ | ⟨u, hu, hut⟩ := exec_next_cases hstep
    · exact raise_inv hs _ _
    · obtain ⟨huinv, hupc⟩ := runs_inv hs hh (fetch_some_bound hf) hu
      rcases hut with rfl | rfl
      · exact huinv.of_same ((toNat_add_two (by omega)).trans_le (by omega)) rfl rfl rfl rfl rfl rfl rfl rfl
      · exact huinv.of_same huinv.pcBound rfl rfl rfl rfl rfl rfl rfl rfl

/-- Settles O16: the reset values meet every bound. -/
theorem resetStateMeetsInvariant : Obligations.ResetStateMeetsInvariant := fun cfg =>
  { pcBound := by simp
    slotBound := fun k => by simp [State.slot]
    slotZero := by simp [State.slot]
    memWf := Memory.wf_nil _
    highRes := rfl
    causeBound := by simp
    causeHalts := fun h => absurd rfl h
    noCauseNoInfo := fun _ => rfl
    lowResDark := fun _ r c _ => Display.pixel_clear r c }

/-- A step with a supplied input is a step, with the queue put back (R5). -/
theorem stepWith_next (inp : StepInput) (s : State) :
    ∃ t, step { s with inputs := [inp] } = .next t ∧ stepWith inp s = .next { t with inputs := s.inputs } := by
  obtain ⟨t, ht⟩ := everyStepAnswersANextState.1 { s with inputs := [inp] }
  exact ⟨t, ht, by rw [stepWith, ht]⟩

/-- A run answers a next state, and what every step with a supplied input keeps, a run keeps (R97). -/
theorem runWith_keeps {P : State → Prop} (hP : ∀ inp s t, P s → stepWith inp s = .next t → P t)
    (inps : List StepInput) (s : State) (hs : P s) : ∃ t, runWith inps s = .next t ∧ P t := by
  induction inps generalizing s with
  | nil => exact ⟨s, rfl, hs⟩
  | cons inp rest ih =>
    obtain ⟨t, -, ht⟩ := stepWith_next inp s
    rw [runWith, ht]
    exact ih _ (hP inp s _ hs ht)

theorem stepWith_inv {inp : StepInput} {s t : State} (hs : s.Inv) (h : stepWith inp s = .next t) : t.Inv := by
  obtain ⟨u, hu, he⟩ := stepWith_next inp s
  rw [he] at h; cases h
  have hin : ({ s with inputs := [inp] } : State).Inv := hs.of_same hs.pcBound rfl rfl rfl rfl rfl rfl rfl rfl
  have hu' := everyStepKeepsInvariant _ _ hin hu
  exact hu'.of_same hu'.pcBound rfl rfl rfl rfl rfl rfl rfl rfl

/-- `load` answers as the size of the image says (R178, R202). -/
theorem load_cases (s : State) (origin : Addr12) (bytes : List Byte) :
    (origin.toNat + bytes.length > memorySize ∧ s.load origin bytes = .refused .programTooLarge) ∨
    (origin.toNat + bytes.length ≤ memorySize ∧
      s.load origin bytes = .next ((s.writeBytes origin.toNat bytes).setPc (zextAddr origin))) := by
  unfold State.load
  split
  · exact .inl ⟨‹_›, rfl⟩
  · exact .inr ⟨by omega, rfl⟩

theorem load_inv {s : State} (hs : s.Inv) {origin : Addr12} {bytes : List Byte}
    (hfit : origin.toNat + bytes.length ≤ memorySize) :
    ((s.writeBytes origin.toNat bytes).setPc (zextAddr origin)).Inv := by
  have hwf := s.writeBytes_wf origin.toNat bytes hfit hs.memWf
  obtain ⟨m, he⟩ := s.writeBytes_eq origin.toNat bytes
  rw [he] at hwf ⊢
  exact { hs with
    pcBound := by rw [State.setPc_pc, toNat_zextAddr]; have := origin.isLt; omega
    memWf := hwf }

/-- Settles O18: a load stays within memory, a step or a run is made of steps, and the rest writes nothing that the
invariant speaks of. -/
theorem everyTransactionKeepsInvariant : Obligations.EveryTransactionKeepsInvariant := by
  intro s tr hs
  cases tr with
  | reset =>
    have hreset := resetStateMeetsInvariant s.config
    exact hreset.of_same hreset.pcBound rfl rfl rfl rfl rfl rfl rfl rfl
  | load origin bytes =>
    obtain ⟨-, h⟩ | ⟨hfit, h⟩ := load_cases s origin bytes <;> rw [Transaction.perform, h]
    · exact hs
    · exact load_inv hs hfit
  | setKey k pressed => exact hs.of_same hs.pcBound rfl rfl rfl rfl rfl rfl rfl rfl
  | clearRedraw => exact hs.of_same hs.pcBound rfl rfl rfl rfl rfl rfl rfl rfl
  | step inp =>
    obtain ⟨t, -, h⟩ := stepWith_next inp s
    rw [Transaction.perform, h]
    exact stepWith_inv hs h
  | run inps =>
    obtain ⟨t, h, ht⟩ := runWith_keeps (P := State.Inv) (fun _ _ _ => stepWith_inv) inps s hs
    rw [Transaction.perform, h]
    exact ht
  | read => exact hs

/-- What reset states have and transactions keep, every reachable state has (R36, R59). -/
theorem reachable_induct {P : State → Prop} (hreset : ∀ cfg, P (State.resetOf cfg))
    (htr : ∀ s (tr : Transaction), P s → P (stateAfter s (tr.perform s))) {s : State} (h : Reachable s) : P s := by
  obtain ⟨cfg, trs, rfl⟩ := h
  exact List.foldlRecOn trs _ (hreset cfg) fun t ht tr _ => htr t tr ht

/-- Settles O19: the invariant holds of every reachable state, and `sp` is bounded by its width. -/
theorem reachableStatesMeetBounds : Obligations.ReachableStatesMeetBounds := by
  intro s hs
  have hinv : s.Inv := reachable_induct resetStateMeetsInvariant everyTransactionKeepsInvariant hs
  exact ⟨hinv.pcBound, hinv.slotBound, hinv.slotZero, Nat.lt_succ_iff.1 s.sp.isLt⟩

end Sys2Proof.Machine
end

section
/-! PROOFS. One step of the engine up to the handler, and the host's transactions (spec/40_engine_step.md R90 to R93,
spec/70_reset_and_hazards.md R200 to R205). -/

namespace Sys2Proof.Machine

/-! The step up to the handler -/

theorem step_of_halted {s : State} (h : s.halted = true) : step s = .next s := by
  rw [step, if_pos h]

theorem stepWith_of_halted {s : State} (inp : StepInput) (h : s.halted = true) : stepWith inp s = .next s := by
  have hstep : step { s with inputs := [inp] } = .next { s with inputs := [inp] } := step_of_halted h
  rw [stepWith, hstep]

/-- Settles O5: the fetch reads the two bytes, and the step of a decoded word is `exec`. -/
theorem stepRunsTheDecodedInstruction : Obligations.StepRunsTheDecodedInstruction := by
  intro s i hh hpc hd
  rw [step, fetch_eq_some s hpc]
  simp only [hh, hd, Bool.false_eq_true, if_false]

/-- Settles O6: the fetch fails, and the step is the fault entry. -/
theorem fetchOutOfRangeFaults : Obligations.FetchOutOfRangeFaults := by
  intro s hh hpc
  have hfetch : s.fetch = none := if_pos hpc
  refine ⟨s.raise .pcOutOfRange s.pc, ?_, faultEntry_raise s .pcOutOfRange s.pc⟩
  rw [step, hfetch, if_neg (by simp [hh])]

/-- The byte at the lower address weighs 256 (R53). -/
theorem toNat_wordOfBytes (hi lo : Byte) : (wordOfBytes hi lo).toNat = hi.toNat * 256 + lo.toNat := by
  rw [wordOfBytes, BitVec.toNat_append, ← Nat.shiftLeft_add_eq_or_of_lt lo.isLt, Nat.shiftLeft_eq]

/-- Settles O7: the fetch puts the two bytes together. -/
theorem fetchIsBigEndian : Obligations.FetchIsBigEndian := fun s hpc =>
  ⟨_, fetch_eq_some s hpc, toNat_wordOfBytes _ _⟩

/-- Settles O8: the check comes first, and a supplied input goes unused. -/
theorem haltedStepChangesNothing : Obligations.HaltedStepChangesNothing := fun _ inp h =>
  ⟨step_of_halted h, stepWith_of_halted inp h⟩

/-! The host's transactions -/

/-- Settles O57: the reset state lists no byte, and every other field is a constant or a parameter. -/
theorem resetRestoresConstructionState : Obligations.ResetRestoresConstructionState := by
  intro s
  have hread (a : Nat) : s.hostReset.readByte a = Memory.blank s.config.font a := rfl
  refine ⟨s.hostReset, rfl, fun a ha => ?_, fun a ha _ => ?_, rfl, fun r => ?_, rfl, fun k => ?_, rfl, rfl, rfl,
    fun k => ?_, Display.pixel_clear, rfl, rfl, rfl, rfl, rfl, rfl⟩
  · rw [hread, Memory.blank, dif_pos ha]
  · rw [hread, Memory.blank, dif_neg (by omega)]
  · simp [State.getV]
  · simp [State.slot]
  · simp [State.keyHeld]

theorem readByte_writeBytes_inside (s : State) (a : Nat) {bs : List Byte} {k : Nat} (hk : k < bs.length) :
    (s.writeBytes a bs).readByte (a + k) = bs[k] := by
  rw [State.readByte_writeBytes, dif_pos ⟨by omega, by omega⟩]
  simp

theorem readByte_writeBytes_outside (s : State) {a c : Nat} {bs : List Byte} (h : c < a ∨ a + bs.length ≤ c) :
    (s.writeBytes a bs).readByte c = s.readByte c := by
  rw [State.readByte_writeBytes, dif_neg (by omega)]

/-- Settles O58: the bytes are written at the origin and up, or the size check refuses. -/
theorem loadCopiesOrRefuses : Obligations.LoadCopiesOrRefuses := by
  intro s origin bytes
  obtain ⟨hbig, h⟩ | ⟨hfit, h⟩ := load_cases s origin bytes
  · rw [if_pos (show origin.toNat + bytes.length > 4096 from hbig)]
    exact ⟨h, by rw [Transaction.perform, h]; rfl⟩
  · rw [if_neg (show ¬ origin.toNat + bytes.length > 4096 from Nat.not_lt.2 hfit)]
    exact ⟨_, h, fun _ hk => readByte_writeBytes_inside s _ hk, fun _ ha => readByte_writeBytes_outside s ha,
      toNat_zextAddr origin, ((writeBytes_same s _ bytes).trans (setPc_same _ _)).mono (by simp)⟩

theorem setKey_same (s : State) (k : Nibble) (pressed : Bool) : SameBut [.keys] s (s.setKey k pressed) := by
  refine SameBut.of_fields fun p hp => ?_
  cases p
  case keys => simp at hp
  all_goals simp [Part.fieldsEqual]

theorem clearRedraw_same (s : State) : SameBut [.needsRedraw] s s.clearRedraw := by
  refine SameBut.of_fields fun p hp => ?_
  cases p
  case needsRedraw => simp at hp
  all_goals simp [Part.fieldsEqual]

/-- Settles O59: each of the two transactions is one field update. -/
theorem setKeyAndClearRedrawWriteOneBit : Obligations.SetKeyAndClearRedrawWriteOneBit := by
  intro s
  refine ⟨fun k pressed => ⟨s.setKey k pressed, rfl, ?_, fun r hr => ?_, setKey_same s k pressed⟩,
    s.clearRedraw, rfl, rfl, clearRedraw_same s⟩
  · rw [State.keyHeld_setKey, if_pos rfl]
  · rw [State.keyHeld_setKey, if_neg hr]

/-- A run of a halted core changes nothing (R91, R97). -/
theorem runWith_of_halted {s : State} (inps : List StepInput) (h : s.halted = true) : runWith inps s = .next s := by
  obtain ⟨t, ht, rfl⟩ := runWith_keeps (P := (· = s))
    (fun inp u t hu hut => by subst hu; rw [stepWith_of_halted inp h] at hut; cases hut; rfl) inps s rfl
  exact ht

/-- The record of a stop: `halted` set and the fault record of `s` (R31, R32). -/
def StopKept (s t : State) : Prop := t.halted = true ∧ t.faultCause = s.faultCause ∧ t.faultInfo = s.faultInfo

theorem stopKept_of_halted {s : State} (h : s.halted = true) (tr : Transaction) (htr : tr ≠ .reset) :
    StopKept s (stateAfter s (tr.perform s)) := by
  cases tr with
  | reset => exact absurd rfl htr
  | load origin bytes =>
    obtain ⟨-, hl⟩ | ⟨-, hl⟩ := load_cases s origin bytes <;> rw [Transaction.perform, hl]
    · exact ⟨h, rfl, rfl⟩
    · have hsame := writeBytes_same s origin.toNat bytes
      exact ⟨(hsame .halted (by simp)).trans h, hsame .fault (by simp)⟩
  | setKey k pressed => exact ⟨h, rfl, rfl⟩
  | clearRedraw => exact ⟨h, rfl, rfl⟩
  | step inp => rw [Transaction.perform, stepWith_of_halted inp h]; exact ⟨h, rfl, rfl⟩
  | run inps => rw [Transaction.perform, runWith_of_halted inps h]; exact ⟨h, rfl, rfl⟩
  | read => exact ⟨h, rfl, rfl⟩

/-- Settles O60: a step and a run of a halted core answer it, and no other transaction writes the record of the stop. -/
theorem onlyResetLeavesHalted : Obligations.OnlyResetLeavesHalted := by
  intro s tr h htr
  obtain ⟨hhalted, hcause, hinfo⟩ := stopKept_of_halted h tr htr
  exact ⟨hhalted, hcause, hinfo, fun inp e => by rw [e]; exact stepWith_of_halted inp h,
    fun inps e => by rw [e]; exact runWith_of_halted inps h⟩

end Sys2Proof.Machine
end

section
/-! PROOFS. Family 41_control_flow: HALT, RET, JP, CALL, the two skips on a literal and JP V0,nnn
(spec/41_control_flow.md R100 to R108). -/

namespace Sys2Proof.Machine

/-- An instruction whose handler raises a fault answers the fault entry, with its own word as information (R179). -/
theorem exec_fault {i : Instr} {s : State} {c : Cause} (h : handle i s = .raises c (encode i)) :
    ∃ t : State, exec i s = .next t ∧ FaultEntry s c.code.toNat (encode i) t :=
  ⟨_, exec_of_raises h, faultEntry_raise s c (encode i)⟩

/-- An instruction whose handler jumps to `w` answers a state with `pc` 2 further on (R94). -/
theorem exec_jump {i : Instr} {s : State} {w : Word} (h : handle i s = .done (s.setPc w)) :
    ∃ t : State, exec i s = .next t ∧ t.pc = w + 2 ∧ SameBut [.pc, .timers] s t :=
  ⟨_, exec_of_done h, rfl, ((setPc_same s w).trans (retired_same _)).mono (by simp)⟩

theorem toNat_zextAddr_add_two (nnn : Addr12) : (zextAddr nnn + 2).toNat = nnn.toNat + 2 := by
  have hlt := nnn.isLt
  rw [toNat_add_two (by rw [toNat_zextAddr]; omega), toNat_zextAddr]

/-- A push below depth 15 steps `sp` up without wrap (R103). -/
theorem toNat_sp_add_one {k : Nibble} (h : k.toNat ≠ 15) : (k + 1).toNat = k.toNat + 1 := by
  have hlt := k.isLt
  have hadd : (k + 1).toNat = (k.toNat + 1) % 2 ^ 4 := BitVec.toNat_add k 1
  omega

/-- A pop above depth 0 steps `sp` down without wrap (R101). -/
theorem toNat_sp_sub_one {k : Nibble} (h : k.toNat ≠ 0) : (k - 1).toNat = k.toNat - 1 := by
  have hlt := k.isLt
  have hsub : (k - 1).toNat = (2 ^ 4 - 1 + k.toNat) % 2 ^ 4 := BitVec.toNat_sub k 1
  omega

/-- Settles O20: the handler sets `halted` and no fault, and ADVANCE follows it. -/
theorem haltStopsProperly : Obligations.HaltStopsProperly := fun nnn s =>
  ⟨decodeWord_halt, _, exec_of_done (i := .halt nnn) rfl, rfl, rfl,
    ((halted_same s true).trans (retired_same _)).mono (by simp)⟩

/-- Settles O21: the check comes first; else the handler jumps to the top slot and steps `sp` down. -/
theorem retReturns : Obligations.RetReturns := by
  refine ⟨rfl, fun s => ?_⟩
  split
  · next hsp =>
    exact exec_fault (c := .stackUnderflow) (i := .ret) (if_pos (BitVec.eq_of_toNat_eq hsp))
  · next hsp =>
    have hne : s.sp ≠ 0 := fun e => hsp (by rw [e]; rfl)
    exact ⟨_, exec_of_done (i := .ret) (if_neg hne), rfl, toNat_sp_sub_one hsp,
      (((setPc_same s _).trans (pop_same _)).trans (retired_same _)).mono (by simp)⟩

/-- Settles O22: the handler jumps, and ADVANCE follows it. -/
theorem jpLandsTwoPastTarget : Obligations.JpLandsTwoPastTarget := by
  intro nnn s
  obtain ⟨t, hexec, hpc, hsame⟩ := exec_jump (i := .jp nnn) (s := s) rfl
  have htarget : t.pc.toNat = nnn.toNat + 2 := by rw [hpc, toNat_zextAddr_add_two]
  exact ⟨decodeOfEncodeIsIdentity (.jp nnn) rfl, t, hexec, htarget, fun _ => by omega, hsame⟩

/-- Settles O23: the check comes first; else the handler pushes the old `pc` and jumps. -/
theorem callPushesItsOwnAddress : Obligations.CallPushesItsOwnAddress := by
  intro nnn s
  refine ⟨decodeOfEncodeIsIdentity (.call nnn) rfl, ?_⟩
  split
  · next hsp =>
    exact exec_fault (c := .stackOverflow) (i := .call nnn) (if_pos (BitVec.eq_of_toNat_eq hsp))
  · next hsp =>
    have hne : s.sp ≠ 15 := fun e => hsp (by rw [e]; rfl)
    exact ⟨_, exec_of_done (i := .call nnn) (if_neg hne), toNat_sp_add_one hsp,
      (s.slot_push s.pc (s.sp + 1)).trans (if_pos rfl), fun k hk => (s.slot_push s.pc k).trans (if_neg hk),
      toNat_zextAddr_add_two nnn,
      (((push_same s s.pc).trans (setPc_same _ _)).trans (retired_same _)).mono (by simp)⟩

/-- Settles O24: the handler skips on equality. -/
theorem seVxKkSkipsOnEqual : Obligations.SeVxKkSkipsOnEqual := by
  intro x kk s
  obtain ⟨t, hexec, hpc, hsame⟩ := exec_skip (i := .seVxKk x kk) (s := s) rfl
  exact ⟨decodeOfEncodeIsIdentity (.seVxKk x kk) rfl, t, hexec, by simpa using hpc, hsame⟩

/-- Settles O25: the handler skips on inequality. -/
theorem sneVxKkSkipsOnUnequal : Obligations.SneVxKkSkipsOnUnequal := by
  intro x kk s
  obtain ⟨t, hexec, hpc, hsame⟩ := exec_skip (i := .sneVxKk x kk) (s := s) rfl
  exact ⟨decodeOfEncodeIsIdentity (.sneVxKk x kk) rfl, t, hexec, by simpa using hpc, hsame⟩

/-- Settles O28: the sum of the operands and 2 stays within 16 bits. -/
theorem jpV0AddsOffset : Obligations.JpV0AddsOffset := by
  intro nnn s
  obtain ⟨t, hexec, hpc, hsame⟩ := exec_jump (i := .jpV0Nnn nnn) (s := s) rfl
  have hnnn := nnn.isLt
  have hv := (s.getV 0).isLt
  refine ⟨decodeOfEncodeIsIdentity (.jpV0Nnn nnn) rfl, t, hexec, ?_, hsame⟩
  rw [hpc, toNat_add_two (by rw [toNat_jumpOffsetTarget]; omega), toNat_jumpOffsetTarget]

/-- Settles O29: RET finds what CALL pushed, and steps `sp` back. -/
theorem retUndoesCall : Obligations.RetUndoesCall := by
  intro nnn s t u hsp hcall hret
  have hcallSpec := (callPushesItsOwnAddress nnn s).2
  rw [if_neg hsp, hcall] at hcallSpec
  obtain ⟨_, ⟨⟩, htsp, htop, hslots, -, hsamecall⟩ := hcallSpec
  have hretSpec := retReturns.2 t
  rw [if_neg (by omega), hret] at hretSpec
  obtain ⟨_, ⟨⟩, hupc, husp, hsameret⟩ := hretSpec
  have hsp' : t.sp = s.sp + 1 := BitVec.eq_of_toNat_eq (by rw [htsp, toNat_sp_add_one hsp])
  refine ⟨by rw [hupc, htop], fun p hp => ?_, fun k hk => ?_⟩
  · by_cases hpsp : p = .sp
    · subst hpsp
      exact BitVec.eq_of_toNat_eq (by omega)
    · exact (hsamecall.trans hsameret) p (by simp_all)
  · exact (hsameret .stack (by simp) k).trans (hslots k (by rwa [hsp']))

end Sys2Proof.Machine
end

section
/-! PROOFS. Family 42_alu: the instructions that set VF, and RND (spec/42_alu.md R126 to R131). First what each of them
has in common: a flag is written to VF and then a result to `Vx` (R132). -/

namespace Sys2Proof.Machine

/-- An instruction whose handler writes a flag and then a result: the result stands in `Vx`, the flag in VF unless VF is
`Vx`, and no other register is written (R94, R132). -/
theorem exec_setFlagThen {i : Instr} {s : State} {x : Nibble} {flag result : Byte}
    (h : handle i s = .done (s.setFlagThen x flag result)) :
    ∃ t : State, exec i s = .next t ∧ t.getV x = result ∧ (x ≠ 15 → t.getV 15 = flag) ∧
      (∀ r : Nibble, r ≠ x → r ≠ 15 → t.getV r = s.getV r) ∧ t.pc = s.pc + 2 ∧ SameBut [.regs, .pc, .timers] s t := by
  have hregs (r : Nibble) := (retired_same (s.setFlagThen x flag result) .regs (by decide) r).trans
    (s.getV_setFlagThen x r flag result)
  refine ⟨_, exec_of_done h, ?_, fun hx => ?_, fun r hrx hr => ?_, rfl,
    (setFlagThen_same s x flag result).trans (retired_same _)⟩
  · rw [hregs, if_pos rfl]
  · rw [hregs, if_neg hx.symm, if_pos (show (15 : Nibble) = vf from rfl)]
  · rw [hregs, if_neg hrx, if_neg (show r ≠ vf from hr)]

theorem toNat_flagByte (c : Bool) : (flagByte c).toNat = if c then 1 else 0 := by cases c <;> rfl

/-- The difference of two bytes as a number, modulo 256 (R133). -/
theorem toNat_sub_byte (a b : Byte) : (a - b).toNat = (a.toNat + 256 - b.toNat) % 256 := by
  have hb := b.isLt
  rw [BitVec.toNat_sub]
  congr 1
  omega

/-- The bit SHR shifts out (R128). -/
theorem toNat_lowBitFlag (a : Byte) : (lowBitFlag a).toNat = a.toNat % 2 := by
  rw [lowBitFlag, toNat_flagByte, BitVec.getLsbD, Nat.testBit_zero]
  simp only [decide_eq_true_eq]
  split <;> omega

/-- The bit SHL shifts out (R130). -/
theorem toNat_highBitFlag (a : Byte) : (highBitFlag a).toNat = a.toNat / 128 := by
  have ha := a.isLt
  rw [highBitFlag, toNat_flagByte, BitVec.getLsbD, Nat.testBit_eq_decide_div_mod_eq]
  simp only [decide_eq_true_eq]
  split <;> omega

/-- Settles O34: the sum wraps, and the flag is its carry. -/
theorem addVxVySetsCarry : Obligations.AddVxVySetsCarry := by
  intro x y s
  obtain ⟨t, hexec, hx, hflag, hrest⟩ := exec_setFlagThen (i := .addVxVy x y) (s := s) rfl
  refine ⟨decodeOfEncodeIsIdentity (.addVxVy x y) rfl, t, hexec, by rw [hx, BitVec.toNat_add], fun h => ?_, hrest⟩
  rw [hflag h, carryFlag, toNat_flagByte]
  simp only [decide_eq_true_eq]

/-- Settles O35: the difference wraps, and the flag is the strict comparison. -/
theorem subVxVySetsGreaterFlag : Obligations.SubVxVySetsGreaterFlag := by
  intro x y s
  obtain ⟨t, hexec, hx, hflag, hrest⟩ := exec_setFlagThen (i := .subVxVy x y) (s := s) rfl
  refine ⟨decodeOfEncodeIsIdentity (.subVxVy x y) rfl, t, hexec, by rw [hx, toNat_sub_byte], fun h => ?_, hrest⟩
  rw [hflag h, greaterFlag, toNat_flagByte]
  simp only [decide_eq_true_eq]

/-- Settles O36: a logical shift to the right, whose flag is bit 0. -/
theorem shrVxShiftsInPlace : Obligations.ShrVxShiftsInPlace := by
  intro x y s
  obtain ⟨t, hexec, hx, hflag, hrest⟩ := exec_setFlagThen (i := .shrVx x y) (s := s) rfl
  refine ⟨decodeOfEncodeIsIdentity (.shrVx x y) rfl, t, hexec, ?_, fun h => ?_, hrest⟩
  · rw [hx, BitVec.toNat_ushiftRight, Nat.shiftRight_eq_div_pow, Nat.pow_one]
  · rw [hflag h, toNat_lowBitFlag]

/-- Settles O37: the difference of SUB, with the other strict comparison as flag. -/
theorem subnVxVySetsLessFlag : Obligations.SubnVxVySetsLessFlag := by
  intro x y s
  obtain ⟨t, hexec, hx, hflag, hrest⟩ := exec_setFlagThen (i := .subnVxVy x y) (s := s) rfl
  refine ⟨decodeOfEncodeIsIdentity (.subnVxVy x y) rfl, t, hexec, by rw [hx, toNat_sub_byte], fun h => ?_, hrest⟩
  rw [hflag h, lessFlag, toNat_flagByte]
  simp only [decide_eq_true_eq]

/-- Settles O38: a shift to the left, whose flag is bit 7. -/
theorem shlVxShiftsInPlace : Obligations.ShlVxShiftsInPlace := by
  intro x y s
  obtain ⟨t, hexec, hx, hflag, hrest⟩ := exec_setFlagThen (i := .shlVx x y) (s := s) rfl
  refine ⟨decodeOfEncodeIsIdentity (.shlVx x y) rfl, t, hexec, ?_, fun h => ?_, hrest⟩
  · rw [hx, BitVec.toNat_shiftLeft, Nat.shiftLeft_eq, Nat.pow_one]
  · rw [hflag h, toNat_highBitFlag]

/-- Settles O39: the handler writes the random byte under the mask. -/
theorem rndMasksTheRandomByte : Obligations.RndMasksTheRandomByte := by
  intro x kk s
  obtain ⟨t, hexec, hx, hrest⟩ := exec_setV (i := .rndVxKk x kk) (s := s) rfl
  exact ⟨decodeOfEncodeIsIdentity (.rndVxKk x kk) rfl, t, hexec, fun k _ => by rw [hx, BitVec.getLsbD_and]; rfl, hrest⟩

end Sys2Proof.Machine
end

section
/-! PROOFS. Family 43_index_memory: ADD I,Vx, LD F,Vx, LD B,Vx and the block transfers (spec/43_index_memory.md R141 to
R145, spec/20_memory.md R61). -/

namespace Sys2Proof.Machine

/-- Settles O41: the sum keeps 16 bits. -/
theorem addIVxWrapsAtSixteenBits : Obligations.AddIVxWrapsAtSixteenBits := by
  intro x s
  obtain ⟨t, hexec, hindex, hrest⟩ := exec_setIndex (i := .addIVx x) (s := s) rfl
  exact ⟨decodeOfEncodeIsIdentity (.addIVx x) rfl, t, hexec, by rw [hindex, BitVec.toNat_add, toNat_zextByte], hrest⟩

/-- Settles O42: five times a byte stays within 16 bits. -/
theorem ldFVxIsFiveTimesVx : Obligations.LdFVxIsFiveTimesVx := by
  intro x s
  obtain ⟨t, hexec, hindex, hrest⟩ := exec_setIndex (i := .ldFVx x) (s := s) rfl
  have hmul : (zextByte (s.getV x) * 5).toNat = (zextByte (s.getV x)).toNat * 5 % 2 ^ 16 := BitVec.toNat_mul _ _
  have hlt := (s.getV x).isLt
  refine ⟨decodeOfEncodeIsIdentity (.ldFVx x) rfl, t, hexec, ?_, hrest⟩
  rw [hindex, hmul, toNat_zextByte, Nat.mod_eq_of_lt (by omega)]

/-- An instruction that stores bytes: every byte reads as the handler left it, and only memory, `pc` and the timers are
written (R54, R94). -/
theorem exec_store {i : Instr} {s u : State} (h : handle i s = .done u) (hu : SameBut [.mem] s u) :
    ∃ t : State, exec i s = .next t ∧ (∀ a : Nat, t.readByte a = u.readByte a) ∧ t.pc = s.pc + 2 ∧
      SameBut [.mem, .pc, .timers] s t := by
  have hpc : u.pc = s.pc := hu .pc (by simp)
  exact ⟨_, exec_of_done h, retired_same u .mem (by simp), congrArg (· + 2) hpc, hu.trans (retired_same u)⟩

/-- An instruction whose byte range passes the top of memory answers the fault entry with code 5 (R56, R175). -/
theorem exec_outOfBounds {i : Instr} {s u : State} {k : Nat}
    (hi : handle i s = if inBounds (baseAddress s) k then .done u else .raises .memoryOutOfBounds (encode i))
    (h : 0 < k ∧ s.index.toNat + k - 1 > 4095) :
    ∃ t : State, exec i s = .next t ∧ FaultEntry s 5 (encode i) t := by
  have hout : inBounds (baseAddress s) k = false := decide_eq_false (by unfold baseAddress; omega)
  exact exec_fault (c := .memoryOutOfBounds) (by rw [hi, hout]; rfl)

/-- The check of R56 as the statements spell its failure. -/
theorem inBounds_eq_true (base k : Nat) (h : ¬ (0 < k ∧ base + k - 1 > 4095)) : inBounds base k = true :=
  decide_eq_true (by omega)

/-- Settles O43: the digits are the quotients and remainders by 100 and 10. -/
theorem ldBVxStoresDecimalDigits : Obligations.LdBVxStoresDecimalDigits := by
  intro x s
  refine ⟨decodeOfEncodeIsIdentity (.ldBVx x) rfl, ?_⟩
  split
  · next hbig => exact exec_outOfBounds (i := .ldBVx x) (k := 3) rfl (by omega)
  · next hfit =>
    have hin := inBounds_eq_true s.index.toNat 3 (by omega)
    obtain ⟨t, hexec, hread, hrest⟩ := exec_store (i := .ldBVx x) (if_pos hin) (writeBytes_same s _ _)
    have hlt := (s.getV x).isLt
    have hlen : (bcdDigits (s.getV x)).length = 3 := rfl
    have h0 : (t.readByte s.index.toNat).toNat = (s.getV x).toNat / 100 % 256 :=
      congrArg BitVec.toNat ((hread _).trans (readByte_writeBytes_inside s s.index.toNat (k := 0) (by omega)))
    have h1 : (t.readByte (s.index.toNat + 1)).toNat = (s.getV x).toNat / 10 % 10 % 256 :=
      congrArg BitVec.toNat ((hread _).trans (readByte_writeBytes_inside s s.index.toNat (k := 1) (by omega)))
    have h2 : (t.readByte (s.index.toNat + 2)).toNat = (s.getV x).toNat % 10 % 256 :=
      congrArg BitVec.toNat ((hread _).trans (readByte_writeBytes_inside s s.index.toNat (k := 2) (by omega)))
    refine ⟨t, hexec, by omega, by omega, by omega, by omega, fun a ha => ?_, hrest⟩
    exact (hread a).trans (readByte_writeBytes_outside s (a := s.index.toNat) (by omega))

/-- Settles O44: register `k` goes to the `k`-th address, for `k` below the count `x`. -/
theorem ldMemVxStoresRegistersBelowX : Obligations.LdMemVxStoresRegistersBelowX := by
  intro x s
  refine ⟨decodeOfEncodeIsIdentity (.ldMemVx x) rfl, ?_⟩
  split
  · next hbig => exact exec_outOfBounds (i := .ldMemVx x) rfl hbig
  · next hfit =>
    have hin := inBounds_eq_true s.index.toNat x.toNat hfit
    obtain ⟨t, hexec, hread, hrest⟩ := exec_store (i := .ldMemVx x) (if_pos hin) (storeRegs_same s _ _)
    have hstored (a : Nat) := (hread a).trans (s.readByte_storeRegs s.index.toNat x.toNat a)
    refine ⟨t, hexec, fun k hk => ?_, fun a ha => ?_, hrest⟩
    · rw [hstored, if_pos (by omega), Nat.add_sub_cancel_left, BitVec.ofNat_toNat, BitVec.setWidth_eq]
    · rw [hstored, if_neg (by omega)]

/-- Settles O45: the byte at the `k`-th address goes to register `k`, for `k` below the count `x`. -/
theorem ldVxMemLoadsRegistersBelowX : Obligations.LdVxMemLoadsRegistersBelowX := by
  intro x s
  refine ⟨decodeOfEncodeIsIdentity (.ldVxMem x) rfl, ?_⟩
  split
  · next hbig => exact exec_outOfBounds (i := .ldVxMem x) rfl hbig
  · next hfit =>
    have hin := inBounds_eq_true s.index.toNat x.toNat hfit
    have hload := loadRegs_same s s.index.toNat x.toNat
    have hpc : (s.loadRegs s.index.toNat x.toNat).pc = s.pc := hload .pc (by simp)
    exact ⟨_, exec_of_done (i := .ldVxMem x) (if_pos hin),
      fun k => (retired_same _ .regs (by simp) k).trans (s.getV_loadRegs _ _ x.isLt.le k),
      congrArg (· + 2) hpc, hload.trans (retired_same _)⟩

/-- Settles O46: a fetch reads the two lowest registers stored. -/
theorem storeIsSeenByNextFetch : Obligations.StoreIsSeenByNextFetch := by
  intro x s t hx hfit hexec
  have hspec := (ldMemVxStoresRegistersBelowX x s).2
  rw [if_neg (by omega), hexec] at hspec
  obtain ⟨_, ⟨⟩, hstored, -⟩ := hspec
  have h0 : t.readByte s.index.toNat = s.getV 0 := hstored 0 (by simp; omega)
  have h1 : t.readByte (s.index.toNat + 1) = s.getV 1 := hstored 1 (by simp; omega)
  rw [← h0, ← h1]
  exact fetch_eq_some { t with pc := s.index } (by show s.index.toNat + 1 < 4096; omega)

end Sys2Proof.Machine
end

section
/-! PROOFS. Family 45_input_timers: SKP, SKNP, LD Vx,K under both policies, and LD ST,Vx (spec/45_input_timers.md R160
to R163, R166). -/

namespace Sys2Proof.Machine

/-! The key that a register names -/

theorem keyOperand_none {s : State} {x : Nibble} (h : (s.getV x).toNat > 15) : keyOperand s x = none := if_pos h

theorem keyOperand_some {s : State} {x : Nibble} (h : ¬ (s.getV x).toNat > 15) :
    keyOperand s x = some (BitVec.ofNat 4 (s.getV x).toNat) := if_neg h

theorem eq_ofNat_of_toNat_eq {k : Nibble} {m : Nat} (h : k.toNat = m) : k = BitVec.ofNat 4 m := by
  rw [← h, BitVec.ofNat_toNat, BitVec.setWidth_eq]

/-- Settles O50: the handler skips when the named key is held. -/
theorem skpSkipsWhenKeyHeld : Obligations.SkpSkipsWhenKeyHeld := by
  intro x s
  refine ⟨decodeOfEncodeIsIdentity (.skpVx x) rfl, ?_⟩
  split
  · next hbig =>
    exact exec_fault (c := .keyIndexOutOfRange) (i := .skpVx x) (by rw [handle, handleSkpVx, keyOperand_none hbig])
  · next hkey =>
    obtain ⟨t, hexec, hpc, hsame⟩ := exec_skip (i := .skpVx x) (by rw [handle, handleSkpVx, keyOperand_some hkey])
    exact ⟨t, hexec, fun k hk => by rw [hpc, eq_ofNat_of_toNat_eq hk], hsame⟩

/-- Settles O51: the handler skips when the named key is not held. -/
theorem sknpSkipsWhenKeyNotHeld : Obligations.SknpSkipsWhenKeyNotHeld := by
  intro x s
  refine ⟨decodeOfEncodeIsIdentity (.sknpVx x) rfl, ?_⟩
  split
  · next hbig =>
    exact exec_fault (c := .keyIndexOutOfRange) (i := .sknpVx x) (by rw [handle, handleSknpVx, keyOperand_none hbig])
  · next hkey =>
    obtain ⟨t, hexec, hpc, hsame⟩ := exec_skip (i := .sknpVx x) (by rw [handle, handleSknpVx, keyOperand_some hkey])
    refine ⟨t, hexec, fun k hk => ?_, hsame⟩
    rw [hpc, eq_ofNat_of_toNat_eq hk]
    cases s.keyHeld (BitVec.ofNat 4 (s.getV x).toNat) <;> rfl

/-- Settles O52: the handler raises under the fault policy, whatever the keys are. -/
theorem ldVxKFaultsUnderFaultPolicy : Obligations.LdVxKFaultsUnderFaultPolicy := by
  intro x s hpolicy
  refine ⟨decodeOfEncodeIsIdentity (.ldVxK x) rfl, ?_⟩
  exact exec_fault (c := .waitKeyUnimplemented) (i := .ldVxK x) (by rw [handle, handleLdVxK, hpolicy])

/-- The keys before key `k` in the order of the search are those below it. -/
theorem keyNumbers_eq_append (k : Nibble) :
    keyNumbers = keyNumbers.take k.toNat ++ k :: keyNumbers.drop (k.toNat + 1) := by
  revert k; decide

theorem lt_of_mem_take_keyNumbers {k j : Nibble} (h : j ∈ keyNumbers.take k.toNat) : j.toNat < k.toNat := by
  revert k j; decide

/-- The search through the keys in rising order finds the least one held (R163). -/
theorem leastKeyHeld_eq_some {s : State} {k : Nibble} (hk : s.keyHeld k = true)
    (hleast : ∀ j : Nibble, j.toNat < k.toNat → s.keyHeld j = false) : s.leastKeyHeld = some k :=
  List.find?_eq_some_iff_append.2 ⟨hk, _, _, keyNumbers_eq_append k, fun j hj => by
    rw [hleast j (lt_of_mem_take_keyNumbers hj)]; rfl⟩

theorem leastKeyHeld_eq_none {s : State} (h : ∀ k : Nibble, s.keyHeld k = false) : s.leastKeyHeld = none :=
  List.find?_eq_none.2 fun k _ => by simp [h k]

theorem handle_ldVxK_of_poll {s : State} (x : Nibble) (h : s.config.waitKeyPolicy = .poll) :
    handle (.ldVxK x) s = pollKey x s := by
  rw [handle, handleLdVxK, h]

/-- Settles O53: the least key held goes to `Vx`; with none held the TIMER phase alone follows. -/
theorem ldVxKPollsUnderPollPolicy : Obligations.LdVxKPollsUnderPollPolicy := by
  intro x s hpolicy
  have hhandle := handle_ldVxK_of_poll x hpolicy
  constructor
  · intro k hk hleast
    rw [pollKey, leastKeyHeld_eq_some hk hleast] at hhandle
    obtain ⟨t, hexec, hx, hrest⟩ := exec_setV hhandle
    exact ⟨t, hexec, by rw [hx]; exact BitVec.toNat_setWidth_of_le (by decide), hrest⟩
  · intro hnone
    rw [pollKey, leastKeyHeld_eq_none hnone] at hhandle
    exact ⟨_, exec_of_waiting hhandle, waited_same s⟩

/-- Settles O56: the handler writes `Vx` to `st`, and the timer phase counts down from there. -/
theorem ldStVxWritesThenTicks : Obligations.LdStVxWritesThenTicks := by
  intro x s
  have hhandle : handle (.ldStVx x) s = .done (s.setSt (s.getV x)) := rfl
  have hexec := exec_of_done hhandle
  obtain ⟨hdt, hst⟩ := timers_of_done hhandle (s.setSt_stepInput (s.getV x)) hexec
  exact ⟨decodeOfEncodeIsIdentity (.ldStVx x) rfl, _, hexec, hst, hdt, rfl,
    ((setSt_same s _).trans (retired_same _)).mono (by simp)⟩

end Sys2Proof.Machine
end

section
/-! PROOFS. Family 44_display: CLS and DRW (spec/44_display.md R150 to R153). -/

namespace Sys2Proof.Machine

/-- Settles O47: the handler puts a dark display in the place of the old one. -/
theorem clsClearsEveryPixel : Obligations.ClsClearsEveryPixel :=
  ⟨rfl, fun s => ⟨_, exec_of_done (i := .cls) rfl, Display.pixel_clear, rfl,
    (display_same s _).trans (retired_same _)⟩⟩

/-- Settles O48: the sprite turns over what it covers, and VF is written on a collision alone. -/
theorem drwTurnsOverCoveredPixels : Obligations.DrwTurnsOverCoveredPixels := by
  intro x y n s
  refine ⟨decodeOfEncodeIsIdentity (.drwVxVyN x y n) rfl, ?_⟩
  split
  · next hbig => exact exec_outOfBounds (i := .drwVxVyN x y n) rfl hbig
  · next hfit =>
    classical
    have hin := inBounds_eq_true s.index.toNat n.toNat hfit
    have hn : n.toNat ≤ 15 := Nat.lt_succ_iff.1 n.isLt
    have hhit := s.hit_drawRows (s.getV x).toNat (s.getV y).toNat n.toNat hn
    generalize hcv : s.drawRows (s.getV x).toNat (s.getV y).toNat n.toNat = cv at hhit
    have hpixel (r c : Nat) : (s.showCanvas cv).display.pixel r c =
        (s.display.pixel r c ^^ decide (covers s (s.getV x).toNat (s.getV y).toNat n.toNat r c)) := by
      rw [State.showCanvas_display, ← hcv, State.pixel_drawRows s _ _ _ hn]
    have hshow := showCanvas_same s cv
    have hpc : (s.showCanvas cv).pc = s.pc := hshow .pc (by simp)
    have hregs (r : Nibble) := (retired_same (s.showCanvas cv) .regs (by simp) r).trans (s.getV_showCanvas cv r)
    refine ⟨_, exec_of_done (i := .drwVxVyN x y n) ((if_pos hin).trans (by rw [hcv])), fun r c hcov => ?_,
      fun r c hcov => ?_, fun hlit => ?_, fun hclean => ?_, fun r hr => ?_, s.showCanvas_needsRedraw cv,
      congrArg (· + 2) hpc, (hshow.trans (retired_same _)).mono (by simp)⟩
    · exact (hpixel r c).trans (by rw [decide_eq_true hcov, Bool.xor_true])
    · exact (hpixel r c).trans (by rw [decide_eq_false hcov, Bool.xor_false])
    · rw [hregs, if_pos ⟨hhit.2 hlit, rfl⟩]
    · rw [hregs, if_neg fun h => hclean (hhit.1 h.1)]
    · rw [hregs, if_neg fun h => hr h.2]

/-- The pixels a sprite covers hang on `I`, memory and the mode alone. -/
theorem covers_congr {s t : State} (hindex : t.index = s.index) (hmem : ∀ a : Nat, t.readByte a = s.readByte a)
    (hres : t.highResolution = s.highResolution) (vx vy n r c : Nat) : covers t vx vy n r c ↔ covers s vx vy n r c := by
  simp only [covers, spriteBit, State.frameHeight, State.frameWidth, hindex, hmem, hres]

/-- Settles O49: the second draw covers the same pixels; a covered pixel that the first draw lit collides in the second,
and one that was lit before has collided in the first. -/
theorem drawingTwiceRestoresDisplay : Obligations.DrawingTwiceRestoresDisplay := by
  intro x y n s t u hx hy hfit ht hu
  have hfirst := (drwTurnsOverCoveredPixels x y n s).2
  rw [if_neg (by omega), ht] at hfirst
  obtain ⟨_, ⟨⟩, hcov, huncov, hlit, -, hregs, -, -, hsame⟩ := hfirst
  have hindex : t.index = s.index := hsame .index (by simp)
  have hcovers := covers_congr hindex (hsame .mem (by simp)) (hsame .highResolution (by simp))
  have hsecond := (drwTurnsOverCoveredPixels x y n t).2
  rw [hindex, if_neg (by omega), hu, hregs x hx, hregs y hy] at hsecond
  obtain ⟨_, ⟨⟩, hcov', huncov', hlit', hclean', -⟩ := hsecond
  simp only [hcovers] at hcov' huncov' hlit' hclean'
  constructor
  · intro r c
    by_cases h : covers s (s.getV x).toNat (s.getV y).toNat n.toNat r c
    · rw [hcov' r c h, hcov r c h, Bool.not_not]
    · rw [huncov' r c h, huncov r c h]
  · rintro ⟨i, j, hi, hj, hbit⟩
    have h : covers s (s.getV x).toNat (s.getV y).toNat n.toNat _ _ := ⟨i, j, hi, hj, hbit, rfl, rfl⟩
    by_cases hcollides : ∃ r c, covers s (s.getV x).toNat (s.getV y).toNat n.toNat r c ∧ t.display.pixel r c = true
    · exact hlit' hcollides
    · rw [hclean' hcollides]
      refine hlit ⟨_, _, h, ?_⟩
      have hdark : t.display.pixel _ _ = false := Bool.eq_false_iff.2 fun hp => hcollides ⟨_, _, h, hp⟩
      rw [hcov _ _ h] at hdark
      simpa using hdark

end Sys2Proof.Machine
end
